-- ==== Sys2Proof/Word.lean ====
section
/-! DEFINITION. The bit vectors of the machine (spec/00_scope.md R6: all quantities are unsigned, bit 0 is the
least significant bit). -/

namespace Sys2Proof

/-- A byte of memory, a general register, a timer (R20, R26, R27, R28). -/
abbrev Byte := BitVec 8

/-- A 16-bit value: `PC`, `I`, a stack slot, an instruction word (R22, R23, R24, R80). -/
abbrev Word := BitVec 16

/-- A general register number 0..15, the field `x` or `y` (R20). -/
abbrev Reg := BitVec 4

/-- A 4-bit field that is no register number: the row count `n`, a function nibble (R81, R82). -/
abbrev Nibble := BitVec 4

/-- The 12-bit field `nnn` (R82). -/
abbrev Addr := BitVec 12

end Sys2Proof
end

