-- ==== Sys2Proof/Config.lean ====
section
/-! DEFINITION. The parameters of the hardware (spec/00_scope.md R5) and the free values: what the model leaves
unconstrained. -/

namespace Sys2Proof

/-- The two policies of `Fx0A` with several keys held (spec/44_random_keys_timers.md R204). -/
inductive KeyWaitPolicy where
  /-- The smallest held key wins and `PC` advances once. -/
  | firstMatch
  /-- Every held key is assigned in scan order and each advances `PC`. -/
  | everyMatch
deriving DecidableEq, Repr

namespace Config

/-- `MEM_SIZE` (R5): addresses 0x000 to 0xFFF. -/
def memSize : Nat := 4096

/-- `PROG_BASE` (R5): where a program is loaded, and the reset value of `PC`. -/
def progBase : Nat := 0x200

/-- `PROG_CAP` (R5): 4096 - 0x200 bytes. -/
def progCap : Nat := 3584

/-- `GLYPH_BYTES` (R5): the stride of the font table. -/
def glyphBytes : Nat := 5

/-- The glyphs 0 to F of the font table, five rows each (spec/20_memory.md R66).
PRESUMED (log entry 1): the spec gives these bytes as the default of the parameter `FONT` and marks them "from
general knowledge, not in source"; unsafe for a claim about the pixels of a glyph. -/
def fontGlyphs : List (List Byte) :=
  [[0xF0, 0x90, 0x90, 0x90, 0xF0],
   [0x20, 0x60, 0x20, 0x20, 0x70],
   [0xF0, 0x10, 0xF0, 0x80, 0xF0],
   [0xF0, 0x10, 0xF0, 0x10, 0xF0],
   [0x90, 0x90, 0xF0, 0x10, 0x10],
   [0xF0, 0x80, 0xF0, 0x10, 0xF0],
   [0xF0, 0x80, 0xF0, 0x90, 0xF0],
   [0xF0, 0x10, 0x20, 0x40, 0x40],
   [0xF0, 0x90, 0xF0, 0x90, 0xF0],
   [0xF0, 0x90, 0xF0, 0x10, 0xF0],
   [0xF0, 0x90, 0xF0, 0x90, 0x90],
   [0xE0, 0x90, 0xE0, 0x90, 0xE0],
   [0xF0, 0x80, 0x80, 0x80, 0xF0],
   [0xE0, 0x90, 0x90, 0x90, 0xE0],
   [0xF0, 0x80, 0xF0, 0x80, 0xF0],
   [0xF0, 0x80, 0xF0, 0x80, 0x80]]

/-- `FONT[0..79]` (R66). -/
def font : List Byte := fontGlyphs.flatten

/-- `KEYWAIT_POLICY` (R5, R204, decision D8 of spec/92_eei_decisions.md; log entry 3). -/
def keyWaitPolicy : KeyWaitPolicy := .firstMatch

/-- `KEY_SCAN_ORDER` (R5, decision D9): ascending, key 0 first. -/
def keyScanOrder : List (BitVec 4) := [0, 1, 2, 3, 4, 5, 6, 7, 8, 9, 10, 11, 12, 13, 14, 15]

/-- FREE VALUE (log entry 2): the sample of `KEYS` in the n-th tick when `State.inputs` gives none. The core assumes
nothing about it (R33). -/
opaque freeKeys : Nat → BitVec 16

/-- FREE VALUE (log entry 2): the sample of `RAND` in the n-th tick when `State.inputs` gives none. It is under no law
(R33, R201). -/
opaque freeRand : Nat → Byte

/-- FREE VALUE (log entry 12): `TICK_HZ`, ticks per second. No rule depends on it (R292, decision D2). -/
opaque tickHz : Nat

end Config

end Sys2Proof
end

