-- ==== Sys2Proof/Syntax.lean ====
section
/-! DEFINITION. The instructions: one constructor for each of the 34 rows of spec/30_encoding.md R84, in the table's
order. Register fields `x`, `y` are register numbers; `nn`, `nnn`, `n` are the immediates of R82. -/

namespace Sys2Proof

/-- The instruction set (R84). The pattern of each row stands in its docstring. -/
inductive Instr where
  /-- `00E0`, clear the framebuffer (R222). -/
  | cls
  /-- `00EE`, return from subroutine (R131). -/
  | ret
  /-- `1nnn`, jump (R132). -/
  | jpNnn (nnn : Addr)
  /-- `2nnn`, call subroutine (R133). -/
  | callNnn (nnn : Addr)
  /-- `3xnn`, skip if equal to immediate (R135). -/
  | seVxNn (x : Reg) (nn : Byte)
  /-- `4xnn`, skip if not equal to immediate (R136). -/
  | sneVxNn (x : Reg) (nn : Byte)
  /-- `5xy0`, skip if registers equal (R137). -/
  | seVxVy (x y : Reg)
  /-- `9xy0`, skip if registers differ (R138). -/
  | sneVxVy (x y : Reg)
  /-- `6xnn`, load immediate (R152). -/
  | ldVxNn (x : Reg) (nn : Byte)
  /-- `7xnn`, add immediate (R153). -/
  | addVxNn (x : Reg) (nn : Byte)
  /-- `8xy0`, register copy (R154). -/
  | ldVxVy (x y : Reg)
  /-- `8xy1`, bitwise OR (R155). -/
  | orVxVy (x y : Reg)
  /-- `8xy2`, bitwise AND (R156). -/
  | andVxVy (x y : Reg)
  /-- `8xy3`, bitwise exclusive OR (R157). -/
  | xorVxVy (x y : Reg)
  /-- `8xy4`, add with carry out (R158). -/
  | addVxVy (x y : Reg)
  /-- `8xy5`, subtract (R159). -/
  | subVxVy (x y : Reg)
  /-- `8xy6`, shift right by one (R160). -/
  | shrVxVy (x y : Reg)
  /-- `8xy7`, reverse subtract (R161). -/
  | subnVxVy (x y : Reg)
  /-- `8xyE`, shift left by one (R162). -/
  | shlVxVy (x y : Reg)
  /-- `Annn`, load index (R181). -/
  | ldINnn (nnn : Addr)
  /-- `Bnnn`, indexed jump (R134). -/
  | jpV0Nnn (nnn : Addr)
  /-- `Cxnn`, masked random byte (R201). -/
  | rndVxNn (x : Reg) (nn : Byte)
  /-- `Dxyn`, draw a sprite (R223). -/
  | drwVxVyN (x y : Reg) (n : Nibble)
  /-- `Ex9E`, skip if key held (R202). -/
  | skpVx (x : Reg)
  /-- `ExA1`, skip if key not held (R203). -/
  | sknpVx (x : Reg)
  /-- `Fx07`, read the delay timer (R205). -/
  | ldVxDt (x : Reg)
  /-- `Fx15`, set the delay timer (R206). -/
  | ldDtVx (x : Reg)
  /-- `Fx18`, set the sound timer (R207). -/
  | ldStVx (x : Reg)
  /-- `Fx1E`, add register to index (R182). -/
  | addIVx (x : Reg)
  /-- `Fx0A`, wait for a key (R204). -/
  | ldVxK (x : Reg)
  /-- `Fx29`, point `I` at a font glyph (R183). -/
  | ldFVx (x : Reg)
  /-- `Fx33`, store binary-coded decimal (R184). -/
  | ldBVx (x : Reg)
  /-- `Fx55`, store registers `V[0]` to `V[x]` (R185). -/
  | ldIIndVx (x : Reg)
  /-- `Fx65`, load registers `V[0]` to `V[x]` (R186). -/
  | ldVxIInd (x : Reg)
deriving DecidableEq, Repr

end Sys2Proof
end

