-- ==== Sys2Proof/WellFormed.lean ====
section
/-! DEFINITION. When an instruction is well formed: each operand fits the field that spec/30_encoding.md R82 gives it.
The operand types of `Instr` are exactly those fields ("every field value names a register", R20; "every value valid",
R81), so the checks hold of every term (`Sys2Proof.Laws.wellFormed_all`); a value too wide for its field cannot be written as
an `Instr`, and `fits` is what refuses it. -/

namespace Sys2Proof

/-- The value `v` fits a field of `width` bits. -/
def fits (width v : Nat) : Bool := decide (v < 2 ^ width)

/-- A register number: 4 bits (R82). -/
def Instr.regFits (r : Nat) : Bool := fits 4 r

/-- A 12-bit address `nnn` (R82). -/
def Instr.addrFits (a : Nat) : Bool := fits 12 a

/-- An 8-bit immediate `nn` (R82). -/
def Instr.immFits (k : Nat) : Bool := fits 8 k

/-- A 4-bit row count `n` (R82). -/
def Instr.rowsFit (n : Nat) : Bool := fits 4 n

/-- Every operand fits its field (R81, R82). -/
def Instr.wellFormed : Instr → Bool
  | .cls => true
  | .ret => true
  | .jpNnn nnn => addrFits nnn.toNat
  | .callNnn nnn => addrFits nnn.toNat
  | .seVxNn x nn => regFits x.toNat && immFits nn.toNat
  | .sneVxNn x nn => regFits x.toNat && immFits nn.toNat
  | .seVxVy x y => regFits x.toNat && regFits y.toNat
  | .sneVxVy x y => regFits x.toNat && regFits y.toNat
  | .ldVxNn x nn => regFits x.toNat && immFits nn.toNat
  | .addVxNn x nn => regFits x.toNat && immFits nn.toNat
  | .ldVxVy x y => regFits x.toNat && regFits y.toNat
  | .orVxVy x y => regFits x.toNat && regFits y.toNat
  | .andVxVy x y => regFits x.toNat && regFits y.toNat
  | .xorVxVy x y => regFits x.toNat && regFits y.toNat
  | .addVxVy x y => regFits x.toNat && regFits y.toNat
  | .subVxVy x y => regFits x.toNat && regFits y.toNat
  | .shrVxVy x y => regFits x.toNat && regFits y.toNat
  | .subnVxVy x y => regFits x.toNat && regFits y.toNat
  | .shlVxVy x y => regFits x.toNat && regFits y.toNat
  | .ldINnn nnn => addrFits nnn.toNat
  | .jpV0Nnn nnn => addrFits nnn.toNat
  | .rndVxNn x nn => regFits x.toNat && immFits nn.toNat
  | .drwVxVyN x y n => regFits x.toNat && regFits y.toNat && rowsFit n.toNat
  | .skpVx x => regFits x.toNat
  | .sknpVx x => regFits x.toNat
  | .ldVxDt x => regFits x.toNat
  | .ldDtVx x => regFits x.toNat
  | .ldStVx x => regFits x.toNat
  | .addIVx x => regFits x.toNat
  | .ldVxK x => regFits x.toNat
  | .ldFVx x => regFits x.toNat
  | .ldBVx x => regFits x.toNat
  | .ldIIndVx x => regFits x.toNat
  | .ldVxIInd x => regFits x.toNat

end Sys2Proof
end

