-- ==== Sys2Proof/Decode.lean ====
section
/-! DEFINITION. Decoding (spec/30_encoding.md R80 to R87): the fields of an instruction word, the decoder, total on any
bytes and refusing by name, the encoder from the same formats, and the opcode map R84 as a list of masks. -/

namespace Sys2Proof

/-! ### Fields (spec/00_scope.md R6) -/

/-- `N3 = W[15:12]`, which selects the opcode family. -/
def fieldOp (w : Word) : BitVec 4 := w.extractLsb' 12 4

/-- `x = W[11:8]`. -/
def fieldX (w : Word) : Reg := w.extractLsb' 8 4

/-- `y = W[7:4]`. -/
def fieldY (w : Word) : Reg := w.extractLsb' 4 4

/-- `n = W[3:0]`, also the function nibble of the `REG_REG` format (R81). -/
def fieldN (w : Word) : Nibble := w.extractLsb' 0 4

/-- `nn = W[7:0]`, also the function byte of the `REG_FN` format (R81). -/
def fieldNN (w : Word) : Byte := w.extractLsb' 0 8

/-- `nnn = W[11:0]`. -/
def fieldNNN (w : Word) : Addr := w.extractLsb' 0 12

/-- The byte at the lower address is `W[15:8]` (spec/20_memory.md R54). -/
def highByte (w : Word) : Byte := w.extractLsb' 8 8

/-- The byte at the higher address is `W[7:0]` (R54). -/
def lowByte (w : Word) : Byte := w.extractLsb' 0 8

/-- Two consecutive bytes of memory as an instruction word, big-endian (R54). -/
def wordOfBytes (hi lo : Byte) : Word := hi ++ lo

/-! ### The decoder -/

/-- Why bytes are no instruction. -/
inductive DecodeError where
  /-- Fewer than the two bytes of an instruction (R80). -/
  | truncated
  /-- The word matches no row of R84: an illegal instruction (R85). -/
  | illegalInstruction (w : Word)
deriving DecidableEq, Repr

/-- Family 8, selected by the function nibble (R84 rows 11 to 19). -/
def decodeAlu (w : Word) : Option Instr :=
  let x := fieldX w
  let y := fieldY w
  let f := fieldN w
  if f = 0x0 then some (.ldVxVy x y)
  else if f = 0x1 then some (.orVxVy x y)
  else if f = 0x2 then some (.andVxVy x y)
  else if f = 0x3 then some (.xorVxVy x y)
  else if f = 0x4 then some (.addVxVy x y)
  else if f = 0x5 then some (.subVxVy x y)
  else if f = 0x6 then some (.shrVxVy x y)
  else if f = 0x7 then some (.subnVxVy x y)
  else if f = 0xE then some (.shlVxVy x y)
  else none

/-- Family F, selected by the function byte (R84 rows 26 to 34). -/
def decodeMisc (w : Word) : Option Instr :=
  let x := fieldX w
  let f := fieldNN w
  if f = 0x07 then some (.ldVxDt x)
  else if f = 0x0A then some (.ldVxK x)
  else if f = 0x15 then some (.ldDtVx x)
  else if f = 0x18 then some (.ldStVx x)
  else if f = 0x1E then some (.addIVx x)
  else if f = 0x29 then some (.ldFVx x)
  else if f = 0x33 then some (.ldBVx x)
  else if f = 0x55 then some (.ldIIndVx x)
  else if f = 0x65 then some (.ldVxIInd x)
  else none

/-- The instruction a word stands for, or none where it matches no row (R83 to R86): the families by `N3`, and in a
family the fixed sub-field. Families 5 and 9 fix the low nibble to 0, family 0 fixes all 16 bits (R86). -/
def decodeLegal (w : Word) : Option Instr :=
  match (fieldOp w).toNat with
  | 0x0 => if w = 0x00E0 then some .cls else if w = 0x00EE then some .ret else none
  | 0x1 => some (.jpNnn (fieldNNN w))
  | 0x2 => some (.callNnn (fieldNNN w))
  | 0x3 => some (.seVxNn (fieldX w) (fieldNN w))
  | 0x4 => some (.sneVxNn (fieldX w) (fieldNN w))
  | 0x5 => if fieldN w = 0 then some (.seVxVy (fieldX w) (fieldY w)) else none
  | 0x6 => some (.ldVxNn (fieldX w) (fieldNN w))
  | 0x7 => some (.addVxNn (fieldX w) (fieldNN w))
  | 0x8 => decodeAlu w
  | 0x9 => if fieldN w = 0 then some (.sneVxVy (fieldX w) (fieldY w)) else none
  | 0xA => some (.ldINnn (fieldNNN w))
  | 0xB => some (.jpV0Nnn (fieldNNN w))
  | 0xC => some (.rndVxNn (fieldX w) (fieldNN w))
  | 0xD => some (.drwVxVyN (fieldX w) (fieldY w) (fieldN w))
  | 0xE =>
    if fieldNN w = 0x9E then some (.skpVx (fieldX w))
    else if fieldNN w = 0xA1 then some (.sknpVx (fieldX w))
    else none
  | 0xF => decodeMisc w
  | _ => none

/-- Decode a word: an instruction, or the refusal by name (R83, R85). Decoding reads the word only. -/
def decodeWord (w : Word) : Except DecodeError Instr :=
  match decodeLegal w with
  | some i => .ok i
  | none => .error (.illegalInstruction w)

/-- Decode the first instruction of a byte string, high byte first (R54, R80), and give the rest. -/
def decode : List Byte → Except DecodeError (Instr × List Byte)
  | hi :: lo :: rest =>
    match decodeWord (wordOfBytes hi lo) with
    | .ok i => .ok (i, rest)
    | .error e => .error e
  | _ => .error .truncated

/-! ### The encoder -/

/-- The `ADDR` format (R81). -/
def formAddr (op : BitVec 4) (nnn : Addr) : Word := op ++ nnn

/-- The `REG_IMM` format, and `REG_FN` with the function byte in place of `nn` (R81). -/
def formRegImm (op : BitVec 4) (x : Reg) (nn : Byte) : Word := op ++ x ++ nn

/-- The `REG_REG` and `REG_REG_N` formats (R81). -/
def formRegReg (op : BitVec 4) (x y : Reg) (n : Nibble) : Word := op ++ x ++ y ++ n

/-- The word of an instruction (R81, R84). -/
def encode : Instr → Word
  | .cls => 0x00E0
  | .ret => 0x00EE
  | .jpNnn nnn => formAddr 0x1 nnn
  | .callNnn nnn => formAddr 0x2 nnn
  | .seVxNn x nn => formRegImm 0x3 x nn
  | .sneVxNn x nn => formRegImm 0x4 x nn
  | .seVxVy x y => formRegReg 0x5 x y 0x0
  | .sneVxVy x y => formRegReg 0x9 x y 0x0
  | .ldVxNn x nn => formRegImm 0x6 x nn
  | .addVxNn x nn => formRegImm 0x7 x nn
  | .ldVxVy x y => formRegReg 0x8 x y 0x0
  | .orVxVy x y => formRegReg 0x8 x y 0x1
  | .andVxVy x y => formRegReg 0x8 x y 0x2
  | .xorVxVy x y => formRegReg 0x8 x y 0x3
  | .addVxVy x y => formRegReg 0x8 x y 0x4
  | .subVxVy x y => formRegReg 0x8 x y 0x5
  | .shrVxVy x y => formRegReg 0x8 x y 0x6
  | .subnVxVy x y => formRegReg 0x8 x y 0x7
  | .shlVxVy x y => formRegReg 0x8 x y 0xE
  | .ldINnn nnn => formAddr 0xA nnn
  | .jpV0Nnn nnn => formAddr 0xB nnn
  | .rndVxNn x nn => formRegImm 0xC x nn
  | .drwVxVyN x y n => formRegReg 0xD x y n
  | .skpVx x => formRegImm 0xE x 0x9E
  | .sknpVx x => formRegImm 0xE x 0xA1
  | .ldVxDt x => formRegImm 0xF x 0x07
  | .ldDtVx x => formRegImm 0xF x 0x15
  | .ldStVx x => formRegImm 0xF x 0x18
  | .addIVx x => formRegImm 0xF x 0x1E
  | .ldVxK x => formRegImm 0xF x 0x0A
  | .ldFVx x => formRegImm 0xF x 0x29
  | .ldBVx x => formRegImm 0xF x 0x33
  | .ldIIndVx x => formRegImm 0xF x 0x55
  | .ldVxIInd x => formRegImm 0xF x 0x65

/-- The bytes of an instruction in memory, high byte first (R54, R80). -/
def encodeBytes (i : Instr) : List Byte := [highByte (encode i), lowByte (encode i)]

/-! ### The opcode map R84 as masks -/

/-- One row of R84: its number, and the bits `mask` that are fixed to those of `pattern`. -/
structure OpcodeRow where
  number : Nat
  mask : Word
  pattern : Word
deriving DecidableEq, Repr

/-- The word matches the row: `(W AND mask) = match` (R83). -/
def OpcodeRow.matches (r : OpcodeRow) (w : Word) : Bool := w &&& r.mask == r.pattern

/-- The 34 rows, in the order of R84. -/
def opcodeTable : List OpcodeRow :=
  [⟨1, 0xFFFF, 0x00E0⟩, ⟨2, 0xFFFF, 0x00EE⟩, ⟨3, 0xF000, 0x1000⟩, ⟨4, 0xF000, 0x2000⟩,
   ⟨5, 0xF000, 0x3000⟩, ⟨6, 0xF000, 0x4000⟩, ⟨7, 0xF00F, 0x5000⟩, ⟨8, 0xF00F, 0x9000⟩] ++
  [⟨9, 0xF000, 0x6000⟩, ⟨10, 0xF000, 0x7000⟩, ⟨11, 0xF00F, 0x8000⟩, ⟨12, 0xF00F, 0x8001⟩,
   ⟨13, 0xF00F, 0x8002⟩, ⟨14, 0xF00F, 0x8003⟩, ⟨15, 0xF00F, 0x8004⟩, ⟨16, 0xF00F, 0x8005⟩] ++
  [⟨17, 0xF00F, 0x8006⟩, ⟨18, 0xF00F, 0x8007⟩, ⟨19, 0xF00F, 0x800E⟩, ⟨20, 0xF000, 0xA000⟩,
   ⟨21, 0xF000, 0xB000⟩, ⟨22, 0xF000, 0xC000⟩, ⟨23, 0xF000, 0xD000⟩, ⟨24, 0xF0FF, 0xE09E⟩] ++
  [⟨25, 0xF0FF, 0xE0A1⟩, ⟨26, 0xF0FF, 0xF007⟩, ⟨27, 0xF0FF, 0xF015⟩, ⟨28, 0xF0FF, 0xF018⟩,
   ⟨29, 0xF0FF, 0xF01E⟩, ⟨30, 0xF0FF, 0xF00A⟩, ⟨31, 0xF0FF, 0xF029⟩, ⟨32, 0xF0FF, 0xF033⟩] ++
  [⟨33, 0xF0FF, 0xF055⟩, ⟨34, 0xF0FF, 0xF065⟩]

/-- The number of the row of R84 that an instruction stands in. -/
def Instr.rowNumber : Instr → Nat
  | .cls => 1
  | .ret => 2
  | .jpNnn _ => 3
  | .callNnn _ => 4
  | .seVxNn _ _ => 5
  | .sneVxNn _ _ => 6
  | .seVxVy _ _ => 7
  | .sneVxVy _ _ => 8
  | .ldVxNn _ _ => 9
  | .addVxNn _ _ => 10
  | .ldVxVy _ _ => 11
  | .orVxVy _ _ => 12
  | .andVxVy _ _ => 13
  | .xorVxVy _ _ => 14
  | .addVxVy _ _ => 15
  | .subVxVy _ _ => 16
  | .shrVxVy _ _ => 17
  | .subnVxVy _ _ => 18
  | .shlVxVy _ _ => 19
  | .ldINnn _ => 20
  | .jpV0Nnn _ => 21
  | .rndVxNn _ _ => 22
  | .drwVxVyN _ _ _ => 23
  | .skpVx _ => 24
  | .sknpVx _ => 25
  | .ldVxDt _ => 26
  | .ldDtVx _ => 27
  | .ldStVx _ => 28
  | .addIVx _ => 29
  | .ldVxK _ => 30
  | .ldFVx _ => 31
  | .ldBVx _ => 32
  | .ldIIndVx _ => 33
  | .ldVxIInd _ => 34

/-! ### The host's view of the decoder -/

/-- The bytes in memory of the instruction whose bits are `w`, numbered as spec/opcode_table.json numbers them: every
instruction is one 16-bit word (R80), stored high byte first (R54). -/
def tableBytes (w : Nat) : List Byte :=
  [highByte (BitVec.ofNat 16 w), lowByte (BitVec.ofNat 16 w)]

/-- What the decoder reads from the instruction whose bits are `w`. Every row has 16 bits, so `nbits` adds nothing. -/
def decodeTableWord (_nbits w : Nat) : Option Instr :=
  match decode (tableBytes w) with
  | .ok (i, _) => some i
  | .error _ => none

end Sys2Proof
end

