-- ==== Sys2Proof/Machine/State.lean ====
section
/-! DEFINITION. The state of the machine (spec/10_state.md R32: the tuple of that rule "and nothing else"), the inputs of
R33 as plain data beside it, the reasons a step can stop, and the state after reset (R35). -/

namespace Sys2Proof.Machine

/-- The cells of `MEM` that differ from what an unlisted address reads as, addresses strictly rising (R28, R50). -/
abbrev Memory := List Host.Cell

/-- The framebuffer (R29, R220): row `y` is a 64-bit row whose bit `x` is the pixel `FB[y][x]`, 1 = on. -/
abbrev FrameBuffer := Vector (BitVec 64) 32

/-- The fault causes (spec/60_exceptions.md R241). `none` is the value while `HALTED = 0`. -/
inductive Cause where
  /-- Never raised. -/
  | none
  /-- The fetched word matches no row of the opcode map. -/
  | illegalInstruction
  /-- The tick starts with `PC > 0xFFE`. -/
  | fetchRange
  /-- `2nnn` with `SP = 16`. -/
  | stackOverflow
  /-- `00EE` with `SP = 0`. -/
  | stackUnderflow
  /-- A data access above 0xFFF. -/
  | dataRange
  /-- `Ex9E` or `ExA1` with `V[x] > 15`. -/
  | keyRange
deriving DecidableEq, Repr

/-- The inputs of one tick (R33): `KEYS[k] = 1` when key `k` is held, and the byte of the random source. -/
structure TickInput where
  keys : BitVec 16
  rand : Byte
deriving DecidableEq, Repr

/-- The state. The first fourteen fields are the tuple of R32. The last four are the model's own (log entry 2): the
inputs of R33, which "are not state" of the block. -/
structure State where
  /-- `V[0]` to `V[15]` (R20); `V[0xF]` is also the flag register (R21). -/
  v : Vector Byte 16
  /-- `PC` (R22). -/
  pc : Word
  /-- `I`, the index register (R23). -/
  i : Word
  /-- `STACK[0]` to `STACK[15]` (R24). -/
  stack : Vector Word 16
  /-- `SP`, the count of used slots, 0 to 16, in 5 bits (R25). -/
  sp : BitVec 5
  /-- `DT`, the delay timer (R26). -/
  dt : Byte
  /-- `ST`, the sound timer (R27). -/
  st : Byte
  /-- `MEM` (R28). -/
  mem : Memory
  /-- `FB` (R29). -/
  fb : FrameBuffer
  /-- `HALTED` (R30). -/
  halted : Bool
  /-- `CAUSE` (R30, R241). -/
  cause : Cause
  /-- `FAULT_PC` (R30). -/
  faultPc : Word
  /-- `FAULT_WORD` (R30). -/
  faultWord : Word
  /-- `STARTED` (R31). -/
  started : Bool
  /-- The model's own: the sample of `KEYS` for this tick (R118). -/
  keys : BitVec 16
  /-- The model's own: the sample of `RAND` for this tick (R118). -/
  rand : Byte
  /-- The model's own: the pairs the environment presents to the coming ticks, the next one first (R33). -/
  inputs : List TickInput
  /-- The model's own: how many ticks have taken a sample; it selects the free values. -/
  tickNo : Nat
deriving DecidableEq, Repr

/-- Why the machine stops with a fault that is not the spec's. The spec's own six faults are no outcome of this kind:
R244 describes the state they leave, and the model takes that state as the next one (log entry 4). -/
inductive Fault where
  /-- Raised by `RET` and `CALL_nnn` when `SP` is 17 to 31: R25 calls these values unreachable and R24 has no such slot.
  Safe: no state a run reaches raises it (log entry 6). -/
  | stackPointerOutOfRange
deriving DecidableEq, Repr

/-- Why the model gives an instruction no meaning. -/
inductive Refusal where
  /-- Raised by an arm of `exec` whose instruction has no meaning yet. Safe. No arm raises it: all 34 are modelled. -/
  | notModelled (mnemonic : String)
deriving DecidableEq, Repr

/-- What executing an instruction, or a tick, answers. -/
abbrev Result := Host.Outcome State Fault Refusal

/-- The state after reset (R35, R280). Every value is the spec's but those of the model's own last four fields
(log entry 2). An empty `mem` means the reset contents: the font, then zeros. -/
def State.reset : State where
  v := Vector.replicate 16 0
  pc := BitVec.ofNat 16 Config.progBase
  i := 0
  stack := Vector.replicate 16 0
  sp := 0
  dt := 0
  st := 0
  mem := []
  fb := Vector.replicate 32 0
  halted := false
  cause := .none
  faultPc := 0
  faultWord := 0
  started := false
  keys := 0
  rand := 0
  inputs := []
  tickNo := 0

end Sys2Proof.Machine
end

