-- ==== Sys2Proof/Machine/Operands.lean ====
section
/-! DEFINITION. Every operand form (spec/30_encoding.md R82): register direct, immediate, implicit register, memory
indirect through `I`; and the writes of single registers. All reads and writes of a register go through these. -/

namespace Sys2Proof.Machine

/-- `V[r]` (R7, R20). -/
def State.reg (s : State) (r : Reg) : Byte := s.v[r.toNat]'(r.isLt)

/-- `V[r] <- b` (R7, R20). No register is hard-wired. -/
def State.setReg (s : State) (r : Reg) (b : Byte) : State := { s with v := s.v.set r.toNat b r.isLt }

/-- `pc <- t` (R7). The target is checked for neither range nor alignment when it is written (R22, R139). -/
def State.setPc (s : State) (t : Word) : State := { s with pc := t }

/-- `I <- a` (R7, R23): 16 bits, never masked to 12. -/
def State.setI (s : State) (a : Word) : State := { s with i := a }

/-- `SP <- n` (R7, R25). -/
def State.setSp (s : State) (n : BitVec 5) : State := { s with sp := n }

/-- `DT <- b` (R7, R26). -/
def State.setDt (s : State) (b : Byte) : State := { s with dt := b }

/-- `ST <- b` (R7, R27). -/
def State.setSt (s : State) (b : Byte) : State := { s with st := b }

/-- `STACK[k]`, where the slot exists (R24). -/
def State.slot (s : State) (k : Nat) : Option Word := s.stack[k]?

/-- `STACK[k] <- w` for a slot that exists (R24). -/
def State.setSlot (s : State) (k : Nat) (w : Word) : State := { s with stack := s.stack.setIfInBounds k w }

/-- The immediate `nnn`, zero-extended to 16 bits (R82). -/
def addrImm (nnn : Addr) : Word := nnn.setWidth 16

/-- A general register's value, zero-extended to 16 bits (R134, R182). -/
def zext16 (b : Byte) : Word := b.setWidth 16

/-- The effective address of the `k`-th byte of a data access: `I + k` over the integers, never reduced (R68, R180). -/
def State.effAddr (s : State) (k : Nat) : Nat := s.i.toNat + k

/-- `KEYS[k]` (R7, R33). -/
def State.keyHeld (s : State) (k : Nat) : Bool := s.keys.getLsbD k

/-- The number of sprite rows, the immediate `n` (R82). -/
def rowCount (n : Nibble) : Nat := n.toNat

/-- How many registers `V[0..x]` are: the bound is inclusive (R82, R185). -/
def regCount (x : Reg) : Nat := x.toNat + 1

/-- The values of `V[0]` to `V[x]`, in ascending order (R185). -/
def State.regsUpTo (s : State) (x : Reg) : List Byte :=
  (List.range (regCount x)).map fun k => s.reg (BitVec.ofNat 4 k)

/-- Write the listed bytes to `V[k]`, `V[k+1]`, ... in ascending order (R186). -/
def State.setRegsFrom (s : State) (k : Nat) : List Byte → State
  | [] => s
  | b :: bs => (s.setReg (BitVec.ofNat 4 k) b).setRegsFrom (k + 1) bs

end Sys2Proof.Machine
end

