-- ==== Sys2Proof/Machine/Flags.lean ====
section
/-! DEFINITION. The results and the flag of every arithmetic form (spec/42_load_alu.md R150, R151). The flag is `V[0xF]`,
written 0 or 1 (R21); there is no other flag. -/

namespace Sys2Proof.Machine

/-- The number of the flag register (R21). -/
abbrev flagReg : Reg := 0xF

/-- A flag's value, 0 or 1 (R21). -/
def flagByte (b : Bool) : Byte := if b then 1 else 0

/-- Write the flag (R21). -/
def State.setFlag (s : State) (b : Bool) : State := s.setReg flagReg (flagByte b)

/-- `(a + b) mod 256` (R150). -/
def addResult (a b : Byte) : Byte := BitVec.ofNat 8 (a.toNat + b.toNat)

/-- The carry of `8xy4`: the true sum exceeds 255 (R150, R158). -/
def addCarry (a b : Byte) : Bool := decide (a.toNat + b.toNat > 255)

/-- `(a - b) mod 256`: `a - b + 256` when `a < b` (R150). -/
def subResult (a b : Byte) : Byte := BitVec.ofNat 8 (a.toNat + 256 - b.toNat)

/-- The indicator of `8xy5` and `8xy7`: the minuend is strictly greater than the subtrahend (R150, R159, R161). -/
def subIndicator (minuend subtrahend : Byte) : Bool := decide (minuend.toNat > subtrahend.toNat)

/-- Right shift by one, bit 7 filled with 0 (R150, R160). -/
def shrResult (a : Byte) : Byte := BitVec.ofNat 8 (a.toNat / 2)

/-- The bit a right shift discards: bit 0 (R160). -/
def shrOut (a : Byte) : Bool := a.getLsbD 0

/-- Left shift by one, bit 0 filled with 0 and bit 7 discarded (R150, R162). -/
def shlResult (a : Byte) : Byte := BitVec.ofNat 8 (a.toNat * 2)

/-- The bit a left shift discards: bit 7 (R162). -/
def shlOut (a : Byte) : Bool := a.getLsbD 7

/-- The write order of `8xy4`: the result, then the flag (R151). -/
def State.writeResultThenFlag (s : State) (x : Reg) (r : Byte) (f : Bool) : State := (s.setReg x r).setFlag f

/-- The write order of `8xy5`, `8xy6`, `8xy7`, `8xyE`: the flag, then the result (R151). -/
def State.writeFlagThenResult (s : State) (x : Reg) (f : Bool) (r : Byte) : State := (s.setFlag f).setReg x r

end Sys2Proof.Machine
end

