-- ==== Sys2Proof/Machine/Ops.lean ====
section
/-! DEFINITION. The shared operations: memory (spec/20_memory.md), fault entry (spec/60_exceptions.md R244), the phases of
a tick before execution (spec/40_tick_cycle.md R111), skips, the stack, the framebuffer engine (spec/45_display.md). -/

namespace Sys2Proof.Machine

/-! ### Memory -/

/-- What an unlisted address reads as: the reset contents of `MEM`, the font table in the lowest 80 bytes and zero above
(R35, R51, R66). -/
def resetByte (a : Nat) : Byte := Config.font.getD a 0

/-- The byte at an address. -/
def Memory.read : Memory → Nat → Byte
  | [], a => resetByte a
  | (c, d) :: m, a => if c = a then d else Memory.read m a

/-- The cells at other addresses. -/
def Memory.erase (m : Memory) (a : Nat) : Memory := m.filter fun c => c.1 != a

/-- List a cell before the first one at a higher address. -/
def Memory.insert : Memory → Nat → Byte → Memory
  | [], a, b => [(a, b)]
  | (c, d) :: m, a, b => if a < c then (a, b) :: (c, d) :: m else (c, d) :: Memory.insert m a b

/-- Store a byte, keeping the canonical form: a byte equal to the reset contents is not listed. -/
def Memory.write (m : Memory) (a : Nat) (b : Byte) : Memory :=
  if b = resetByte a then Memory.erase m a else Memory.insert (Memory.erase m a) a b

/-- The canonical form from the address `lo` on: addresses strictly rising, each inside the address space, and no entry
equal to what an unlisted address reads as. -/
def Memory.wfFrom : Nat → Memory → Bool
  | _, [] => true
  | lo, (c, d) :: m => decide (lo ≤ c) && decide (c < Config.memSize) && decide (d ≠ resetByte c) && Memory.wfFrom (c + 1) m

/-- The canonical form. -/
def Memory.wf (m : Memory) : Bool := Memory.wfFrom 0 m

/-- `n` bytes from an address on, in ascending order (R55). -/
def Memory.readList (m : Memory) (a : Nat) : Nat → List Byte
  | 0 => []
  | n + 1 => m.read a :: Memory.readList m (a + 1) n

/-- Store bytes from an address on, in ascending order (R55). -/
def Memory.writeList (m : Memory) (a : Nat) : List Byte → Memory
  | [] => m
  | b :: bs => Memory.writeList (m.write a b) (a + 1) bs

/-- The byte at an address. An instruction reaches memory through the block operations below, which check the addresses; the
fetch checks its own (R112). -/
def State.byteAt (s : State) (a : Nat) : Byte := s.mem.read a

/-- `MemRead` and `MemWrite` of `len` bytes from `base` on raise no `DataRange`: none of the addresses lies above 0xFFF (R7,
R53). No byte asks for nothing (R227). -/
def rangeOk (base len : Nat) : Bool := decide (len = 0 ∨ base + len ≤ Config.memSize)

/-- Read `len` bytes from `I` on: none, with no effect, where one of them does not exist (R53, R180). -/
def State.loadBlock (s : State) (len : Nat) : Option (List Byte) :=
  if rangeOk (s.effAddr 0) len then some (s.mem.readList (s.effAddr 0) len) else none

/-- Store bytes from `I` on: none, with no effect, where one of them has no address (R53, R180). -/
def State.storeBlock (s : State) (bs : List Byte) : Option State :=
  if rangeOk (s.effAddr 0) bs.length then some { s with mem := s.mem.writeList (s.effAddr 0) bs } else none

/-- The decimal digits of a byte: hundreds, tens, ones, each in a full byte (R184). -/
def bcdDigits (b : Byte) : List Byte :=
  [BitVec.ofNat 8 (b.toNat / 100), BitVec.ofNat 8 (b.toNat / 10 % 10), BitVec.ofNat 8 (b.toNat % 10)]

/-! ### Faults -/

/-- FAULT ENTRY (R244), for a fault with cause `c` at instruction address `a` with fetched word `w`, on a state in which
phases F, P and X have changed nothing but `PC`. -/
def State.enterFault (s : State) (c : Cause) (a w : Word) : State :=
  { s with pc := a, halted := true, cause := c, faultPc := a, faultWord := w }

/-- `A`, the address of the instruction in execution (R7): `pc` holds `A + 2` (R113). Log entry 5. -/
def State.instrAddr (s : State) : Word := s.pc - 2

/-- `raise c(A, W)` inside the instruction `i` (R7): abandon it and halt. `W` is the word of `i` (log entry 5). Every
instruction raises before its first write, so nothing but the advance of `PC` is undone (R115). -/
def State.raise (s : State) (c : Cause) (i : Instr) : Result := .next (s.enterFault c s.instrAddr (encode i))

/-! ### Control flow -/

/-- The default advance of phase P (R113). -/
def State.advance (s : State) : State := s.setPc (s.pc + 2)

/-- A conditional skip: a further 2 when it is taken (R130). The skipped word is not read. -/
def State.skipIf (s : State) (taken : Bool) : State := if taken then s.setPc (s.pc + 2) else s

/-! ### The phases of a tick before execution (R111) -/

/-- The one sample of `KEYS` and `RAND` for this tick (R118): the next pair the environment presents, or a free value
(log entry 2). -/
def State.sample (s : State) : State :=
  match s.inputs with
  | [] => { s with keys := Config.freeKeys s.tickNo, rand := Config.freeRand s.tickNo, tickNo := s.tickNo + 1 }
  | p :: rest => { s with keys := p.keys, rand := p.rand, inputs := rest, tickNo := s.tickNo + 1 }

/-- The start of a tick: `STARTED <- 1` (R31, R111), and the inputs are sampled. -/
def State.beginTick (s : State) : State := { s.sample with started := true }

/-- One timer: decremented while nonzero, 0 stays 0 (R252). -/
def countDown (b : Byte) : Byte := if b = 0 then 0 else b - 1

/-- Phase T (R252). -/
def State.timerPhase (s : State) : State := (s.setDt (countDown s.dt)).setSt (countDown s.st)

/-- Phase F: the word at `PC`, big-endian, at any parity; none where `PC > 0xFFE` (R54, R56, R112). -/
def State.fetchWord (s : State) : Option Word :=
  if s.pc.toNat ≤ 0xFFE then some (wordOfBytes (s.byteAt s.pc.toNat) (s.byteAt (s.pc.toNat + 1))) else none

/-- `raise FetchRange(A)`: no word was fetched, so the word recorded is 0 (R112, R244). -/
def State.fetchFault (s : State) : State := s.enterFault .fetchRange s.pc 0

/-- `raise IllegalInstruction` for the fetched word `w` (R85, R114), from the state before the default advance. -/
def State.illegalFault (s : State) (w : Word) : State := s.enterFault .illegalInstruction s.pc w

/-! ### The framebuffer engine (spec/45_display.md) -/

/-- `FB[y][x]` (R7, R220). -/
def FrameBuffer.pixel (fb : FrameBuffer) (y : Fin 32) (x : Fin 64) : Bool := fb[y].getLsbD x

/-- `FB[y][x] <- b` (R7, R220). -/
def FrameBuffer.setPixel (fb : FrameBuffer) (y : Fin 32) (x : Fin 64) (b : Bool) : FrameBuffer :=
  fb.set y (if b then fb[y] ||| (1#64 <<< x.val) else fb[y] &&& ~~~(1#64 <<< x.val))

/-- The pixel primitive (R221): toggle, recording a collision where the pixel was on. -/
def toggle (fc : FrameBuffer × Bool) (y : Fin 32) (x : Fin 64) : FrameBuffer × Bool :=
  if FrameBuffer.pixel fc.1 y x then (FrameBuffer.setPixel fc.1 y x false, true) else (FrameBuffer.setPixel fc.1 y x true, fc.2)

/-- The screen row of sprite row `row`, wrapped (R224). -/
def screenRow (vy : Byte) (row : Nat) : Fin 32 := Fin.ofNat 32 (vy.toNat + row)

/-- The screen column of sprite column `col`, wrapped (R224). -/
def screenCol (vx : Byte) (col : Nat) : Fin 64 := Fin.ofNat 64 (vx.toNat + col)

/-- One sprite byte at sprite row `row`: column 0 is bit 7, a bit that is 0 touches nothing (R221, R223, R228). -/
def drawRow (vx vy : Byte) (row : Nat) (b : Byte) (fc : FrameBuffer × Bool) : FrameBuffer × Bool :=
  (List.range 8).foldl
    (fun fc col => if b.getLsbD (7 - col) then toggle fc (screenRow vy row) (screenCol vx col) else fc) fc

/-- The sprite's bytes from sprite row `row` on, top row first (R223, R228). -/
def drawRows (vx vy : Byte) (row : Nat) : List Byte → FrameBuffer × Bool → FrameBuffer × Bool
  | [], fc => fc
  | b :: bs, fc => drawRows vx vy (row + 1) bs (drawRow vx vy row b fc)

/-- Draw a sprite: the framebuffer after it, and whether any pixel went from on to off (R223, R226). -/
def drawSprite (fb : FrameBuffer) (vx vy : Byte) (sprite : List Byte) : FrameBuffer × Bool :=
  drawRows vx vy 0 sprite (fb, false)

/-- All pixels off (R222). -/
def blankFrame : FrameBuffer := Vector.replicate 32 0

/-- Replace the framebuffer. -/
def State.setFb (s : State) (fb : FrameBuffer) : State := { s with fb := fb }

/-! ### The key wait (spec/44_random_keys_timers.md R204) -/

/-- The held keys, in scan order (decision D9). -/
def State.heldKeys (s : State) : List (BitVec 4) := Config.keyScanOrder.filter fun k => s.keyHeld k.toNat

/-- Assign the listed keys to `V[x]` one after another, each advancing `PC` by 2 (R204, policy `EVERY_MATCH`). -/
def State.assignKeys (s : State) (x : Reg) : List (BitVec 4) → State
  | [] => s
  | k :: ks => ((s.setReg x (k.setWidth 8)).skipIf true).assignKeys x ks

/-- `Fx0A` under a policy (R204). No key held: the default advance is undone, so the same instruction is fetched again.
`FIRST_MATCH`: the first held key in scan order, `PC` stays `A + 2`. `EVERY_MATCH`: from `A`, each held key is assigned and
advances `PC`. -/
def State.keyWait (s : State) (policy : KeyWaitPolicy) (x : Reg) : State :=
  match policy with
  | .firstMatch =>
    match s.heldKeys with
    | [] => s.setPc s.instrAddr
    | k :: _ => s.setReg x (k.setWidth 8)
  | .everyMatch => (s.setPc s.instrAddr).assignKeys x s.heldKeys

end Sys2Proof.Machine
end

