-- ==== Sys2Proof/Machine/Alu.lean ====
section
/-! DEFINITION. Register load and ALU instructions (spec/42_load_alu.md). None writes `pc`, reaches memory or faults.
Operands are read before any write (spec/00_scope.md R8); the order of the two writes of the flag-writing ones is R151's. -/

namespace Sys2Proof.Machine

/-- `6xnn` (R152). -/
def execLdVxNn (x : Reg) (nn : Byte) (s : State) : Result := .next (s.setReg x nn)

/-- `7xnn` (R153): no flag effect. -/
def execAddVxNn (x : Reg) (nn : Byte) (s : State) : Result := .next (s.setReg x (addResult (s.reg x) nn))

/-- `8xy0` (R154). -/
def execLdVxVy (x y : Reg) (s : State) : Result := .next (s.setReg x (s.reg y))

/-- `8xy1` (R155): no flag effect. -/
def execOrVxVy (x y : Reg) (s : State) : Result := .next (s.setReg x (s.reg x ||| s.reg y))

/-- `8xy2` (R156): no flag effect. -/
def execAndVxVy (x y : Reg) (s : State) : Result := .next (s.setReg x (s.reg x &&& s.reg y))

/-- `8xy3` (R157): no flag effect. -/
def execXorVxVy (x y : Reg) (s : State) : Result := .next (s.setReg x (s.reg x ^^^ s.reg y))

/-- `8xy4` (R158): result, then carry. -/
def execAddVxVy (x y : Reg) (s : State) : Result :=
  .next (s.writeResultThenFlag x (addResult (s.reg x) (s.reg y)) (addCarry (s.reg x) (s.reg y)))

/-- `8xy5` (R159): flag `vx > vy`, then `vx - vy`. -/
def execSubVxVy (x y : Reg) (s : State) : Result :=
  .next (s.writeFlagThenResult x (subIndicator (s.reg x) (s.reg y)) (subResult (s.reg x) (s.reg y)))

/-- `8xy6` (R160): the shift source is `V[y]`. -/
def execShrVxVy (x y : Reg) (s : State) : Result :=
  .next (s.writeFlagThenResult x (shrOut (s.reg y)) (shrResult (s.reg y)))

/-- `8xy7` (R161): flag `vx < vy`, then `vy - vx`. -/
def execSubnVxVy (x y : Reg) (s : State) : Result :=
  .next (s.writeFlagThenResult x (subIndicator (s.reg y) (s.reg x)) (subResult (s.reg y) (s.reg x)))

/-- `8xyE` (R162): the shift source is `V[y]`. -/
def execShlVxVy (x y : Reg) (s : State) : Result :=
  .next (s.writeFlagThenResult x (shlOut (s.reg y)) (shlResult (s.reg y)))

end Sys2Proof.Machine
end

