-- ==== Sys2Proof/Machine/ControlFlow.lean ====
section
/-! DEFINITION. Control transfer (spec/41_control_flow.md). `pc` holds `A + 2` when a meaning starts (R113). -/

namespace Sys2Proof.Machine

/-- `00EE` (R131): the popped slot keeps its value (R36). `SP` above 16 has no slot: `stackPointerOutOfRange`. -/
def execRet (s : State) : Result :=
  if s.sp = 0 then s.raise .stackUnderflow .ret
  else
    match s.slot (s.sp.toNat - 1) with
    | some target => .next ((s.setSp (s.sp - 1)).setPc target)
    | none => .fault .stackPointerOutOfRange

/-- `1nnn` (R132). -/
def execJpNnn (nnn : Addr) (s : State) : Result := .next (s.setPc (addrImm nnn))

/-- `2nnn` (R133): the pushed value is `A + 2`. `SP` above 16 has no slot: `stackPointerOutOfRange`. -/
def execCallNnn (nnn : Addr) (s : State) : Result :=
  if s.sp = 16 then s.raise .stackOverflow (.callNnn nnn)
  else
    match s.slot s.sp.toNat with
    | some _ => .next (((s.setSlot s.sp.toNat s.pc).setSp (s.sp + 1)).setPc (addrImm nnn))
    | none => .fault .stackPointerOutOfRange

/-- `Bnnn` (R134): always `V[0]`, the sum not reduced to 12 bits. -/
def execJpV0Nnn (nnn : Addr) (s : State) : Result := .next (s.setPc (addrImm nnn + zext16 (s.reg 0)))

/-- `3xnn` (R135). -/
def execSeVxNn (x : Reg) (nn : Byte) (s : State) : Result := .next (s.skipIf (s.reg x == nn))

/-- `4xnn` (R136). -/
def execSneVxNn (x : Reg) (nn : Byte) (s : State) : Result := .next (s.skipIf (s.reg x != nn))

/-- `5xy0` (R137). -/
def execSeVxVy (x y : Reg) (s : State) : Result := .next (s.skipIf (s.reg x == s.reg y))

/-- `9xy0` (R138). -/
def execSneVxVy (x y : Reg) (s : State) : Result := .next (s.skipIf (s.reg x != s.reg y))

end Sys2Proof.Machine
end

