-- ==== Sys2Proof/Machine/Devices.lean ====
section
/-! DEFINITION. Random, keypad and timer-access instructions (spec/44_random_keys_timers.md). `KEYS` and `RAND` are the
tick's inputs, sampled into `keys` and `rand` at its start (R118). -/

namespace Sys2Proof.Machine

/-- `Cxnn` (R201). -/
def execRndVxNn (x : Reg) (nn : Byte) (s : State) : Result := .next (s.setReg x (s.rand &&& nn))

/-- `Ex9E` (R202): all 8 bits of `V[x]` take part in the range test. -/
def execSkpVx (x : Reg) (s : State) : Result :=
  if (s.reg x).toNat > 15 then s.raise .keyRange (.skpVx x)
  else .next (s.skipIf (s.keyHeld (s.reg x).toNat))

/-- `ExA1` (R203). -/
def execSknpVx (x : Reg) (s : State) : Result :=
  if (s.reg x).toNat > 15 then s.raise .keyRange (.sknpVx x)
  else .next (s.skipIf (!s.keyHeld (s.reg x).toNat))

/-- `Fx0A` (R204), under this hardware's policy. -/
def execLdVxK (x : Reg) (s : State) : Result := .next (s.keyWait Config.keyWaitPolicy x)

/-- `Fx07` (R205): the value this tick's timer phase left. -/
def execLdVxDt (x : Reg) (s : State) : Result := .next (s.setReg x s.dt)

/-- `Fx15` (R206). -/
def execLdDtVx (x : Reg) (s : State) : Result := .next (s.setDt (s.reg x))

/-- `Fx18` (R207). -/
def execLdStVx (x : Reg) (s : State) : Result := .next (s.setSt (s.reg x))

end Sys2Proof.Machine
end

