-- ==== Sys2Proof/Machine/Display.lean ====
section
/-! DEFINITION. Display instructions (spec/45_display.md). -/

namespace Sys2Proof.Machine

/-- `00E0` (R222). -/
def execCls (s : State) : Result := .next (s.setFb blankFrame)

/-- `Dxyn` (R223 to R228): the coordinates are read before the flag is written; the whole sprite range is checked first,
and no row at all is checked for nothing (R227). -/
def execDrwVxVyN (x y : Reg) (n : Nibble) (s : State) : Result :=
  match s.loadBlock (rowCount n) with
  | some sprite =>
    .next ((s.setFb (drawSprite s.fb (s.reg x) (s.reg y) sprite).1).setFlag
      (drawSprite s.fb (s.reg x) (s.reg y) sprite).2)
  | none => s.raise .dataRange (.drwVxVyN x y n)

end Sys2Proof.Machine
end

