-- ==== Sys2Proof/Machine/IndexMemory.lean ====
section
/-! DEFINITION. Index register and memory instructions (spec/43_index_memory.md). None writes `pc` or the flag; `Fx33`,
`Fx55`, `Fx65` leave `I` unchanged (R187) and check their whole range before any effect (R180). -/

namespace Sys2Proof.Machine

/-- `Annn` (R181). -/
def execLdINnn (nnn : Addr) (s : State) : Result := .next (s.setI (addrImm nnn))

/-- `Fx1E` (R182): a 16-bit sum, no flag. -/
def execAddIVx (x : Reg) (s : State) : Result := .next (s.setI (s.i + zext16 (s.reg x)))

/-- `Fx29` (R183): all 8 bits of `V[x]`, times 5. -/
def execLdFVx (x : Reg) (s : State) : Result := .next (s.setI (BitVec.ofNat 16 (Config.glyphBytes * (s.reg x).toNat)))

/-- `Fx33` (R184). -/
def execLdBVx (x : Reg) (s : State) : Result :=
  match s.storeBlock (bcdDigits (s.reg x)) with
  | some t => .next t
  | none => s.raise .dataRange (.ldBVx x)

/-- `Fx55` (R185). -/
def execLdIIndVx (x : Reg) (s : State) : Result :=
  match s.storeBlock (s.regsUpTo x) with
  | some t => .next t
  | none => s.raise .dataRange (.ldIIndVx x)

/-- `Fx65` (R186). -/
def execLdVxIInd (x : Reg) (s : State) : Result :=
  match s.loadBlock (regCount x) with
  | some bs => .next (s.setRegsFrom 0 bs)
  | none => s.raise .dataRange (.ldVxIInd x)

end Sys2Proof.Machine
end

