-- ==== Sys2Proof/Machine/Tick.lean ====
section
/-! DEFINITION. The phases of a tick in their order (spec/40_tick_cycle.md R110, R111). -/

namespace Sys2Proof.Machine

/-- One tick (R111): `STARTED <- 1` and the input sample; nothing more while halted (R245); else the timers, the fetch, the
default advance, and the decoded instruction. -/
def runTick (s : State) : Result :=
  if s.beginTick.halted then .next s.beginTick
  else
    match s.beginTick.timerPhase.fetchWord with
    | none => .next s.beginTick.timerPhase.fetchFault
    | some w =>
      match decodeWord w with
      | .error _ => .next (s.beginTick.timerPhase.illegalFault w)
      | .ok i => exec i s.beginTick.timerPhase.advance

end Sys2Proof.Machine
end

