-- ==== Sys2Proof/Machine/Step.lean ====
section
/-! DEFINITION. The tick (spec/40_tick_cycle.md R110, R111), the machine's one transition. -/

namespace Sys2Proof.Machine

/-- One tick (R111). -/
def step (s : State) : Host.Outcome State Fault Refusal := runTick s

/-- `s` with the instruction whose bits are `w` stored at `PC` and `PC + 1`, high byte first (R54), which is where the next
tick fetches. Nothing else is changed; where no fetch is possible (`PC > 0xFFE`, R112) nothing is stored. This stands for the
loader's `load` (log entries 9 and 16). -/
def State.withFetchWord (s : State) (_nbits w : Nat) : State :=
  if s.pc.toNat ≤ 0xFFE then { s with mem := s.mem.writeList s.pc.toNat (tableBytes w) } else s

end Sys2Proof.Machine
end

