-- ==== Sys2Proof/Machine/Events.lean ====
section
/-! DEFINITION. The events at the block's boundary (spec/10_state.md R33): `reset`, `load` and `tick` with its inputs. All
land between ticks (spec/60_exceptions.md R248); none diverts control flow. -/

namespace Sys2Proof.Machine

/-- `reset` (spec/70_reset_and_hazards.md R280, R281): every component of the block takes its reset value, whatever the
state was. What the environment will present is not the block's and stays. -/
def State.resetEvent (s : State) : State :=
  { State.reset with keys := s.keys, rand := s.rand, inputs := s.inputs, tickNo := s.tickNo }

/-- `load(bytes)` (R283, R284): verbatim from 0x200 on, at most 3584 bytes, the rest dropped silently; ignored once
`STARTED = 1` (R286). A failed load is no event (R285). -/
def State.load (s : State) (bytes : List Byte) : State :=
  if s.started then s else { s with mem := s.mem.writeList Config.progBase (bytes.take Config.progCap) }

/-- The launch state of a program (R286). -/
def State.launch (bytes : List Byte) : State := State.reset.load bytes

/-- The environment presents a pair `(KEYS, RAND)` to the next tick (R33). -/
def State.present (s : State) (p : TickInput) : State := { s with inputs := p :: s.inputs }

/-- The tick as R110 writes it: a function of the state and of the tick's inputs. -/
def tick (s : State) (keys : BitVec 16) (rand : Byte) : Result := step (s.present ⟨keys, rand⟩)

/-- What the driver and the loader can do (R33, R262). -/
inductive Event where
  | reset
  | load (bytes : List Byte)
  | tick (keys : BitVec 16) (rand : Byte)
deriving DecidableEq, Repr

/-- The state an event leaves. -/
def onEvent (s : State) : Event → Result
  | .reset => .next s.resetEvent
  | .load bytes => .next (s.load bytes)
  | .tick keys rand => Sys2Proof.Machine.tick s keys rand

/-- A run: events one after another, stopping where one stops (R119: the driver chooses when to stop ticking). -/
def runEvents (s : State) : List Event → Result
  | [] => .next s
  | e :: es =>
    match onEvent s e with
    | .next t => runEvents t es
    | .fault r => .fault r
    | .refused r => .refused r

end Sys2Proof.Machine
end

