-- ==== Sys2Proof/Machine/Fsm.lean ====
section
/-! DEFINITION. The control FSM at phase level (spec/40_tick_cycle.md R116). It adds no behaviour to the tick: no observer
sees a state between two phases (R64). How many clock cycles a phase takes is not specified. -/

namespace Sys2Proof.Machine

/-- The states of the FSM. `advance` and `execute` carry the address and the word fetched by this tick. -/
inductive FsmState where
  | ready
  | idle
  | timer
  | fetch
  | advance (a w : Word)
  | execute (a w : Word)
  | halt
deriving DecidableEq, Repr

/-- The FSM and the block's state. -/
structure FsmConf where
  ctrl : FsmState
  s : State
deriving DecidableEq, Repr

/-- Where the FSM rests between ticks: `HALT` with `HALTED = 1`, `READY` until the first tick, else `IDLE`. -/
def State.restState (s : State) : FsmState := if s.halted then .halt else if s.started then .idle else .ready

/-- The FSM between ticks. -/
def FsmConf.atRest (s : State) : FsmConf := ⟨s.restState, s⟩

/-- A `tick` request: `READY` and `IDLE` leave to `TIMER`; in `HALT` it has no effect on the block; none while a tick is in
progress, which is outside the contract (R116, log entry 19). -/
def FsmConf.tick (c : FsmConf) : Option FsmConf :=
  match c.ctrl with
  | .ready => some ⟨.timer, c.s.beginTick⟩
  | .idle => some ⟨.timer, c.s.beginTick⟩
  | .halt => some ⟨.halt, c.s.beginTick⟩
  | .timer => none
  | .fetch => none
  | .advance _ _ => none
  | .execute _ _ => none

/-- `reset` takes the FSM to `READY` from any state, abandoning a tick in progress (R116, R281). -/
def FsmConf.reset (c : FsmConf) : FsmConf := ⟨.ready, c.s.resetEvent⟩

/-- One phase. The three resting states stay until an event. -/
def FsmConf.phase (c : FsmConf) : Host.Outcome FsmConf Fault Refusal :=
  match c.ctrl with
  | .ready => .next c
  | .idle => .next c
  | .halt => .next c
  | .timer => .next ⟨.fetch, c.s.timerPhase⟩
  | .fetch =>
    match c.s.fetchWord with
    | none => .next ⟨.halt, c.s.fetchFault⟩
    | some w => .next ⟨.advance c.s.pc w, c.s⟩
  | .advance a w => .next ⟨.execute a w, c.s.setPc (a + 2)⟩
  | .execute a w =>
    match decodeWord w with
    | .error _ => .next ⟨.halt, c.s.enterFault .illegalInstruction a w⟩
    | .ok i =>
      match exec i c.s with
      | .next t => .next (FsmConf.atRest t)
      | .fault r => .fault r
      | .refused r => .refused r

/-- `n` phases, stopping where one stops. -/
def FsmConf.phases (c : FsmConf) : Nat → Host.Outcome FsmConf Fault Refusal
  | 0 => .next c
  | n + 1 =>
    match c.phase with
    | .next c' => c'.phases n
    | .fault r => .fault r
    | .refused r => .refused r

end Sys2Proof.Machine
end

