-- ==== Sys2Proof/Machine/Outputs.lean ====
section
/-! DEFINITION. The outputs of the block (spec/10_state.md R34): functions of the state, valid between ticks; they add no
state. -/

namespace Sys2Proof.Machine

/-- The code of a cause, the 3-bit value of `CAUSE` (spec/60_exceptions.md R241). 7 is unused. -/
def Cause.code : Cause → BitVec 3
  | .none => 0
  | .illegalInstruction => 1
  | .fetchRange => 2
  | .stackOverflow => 3
  | .stackUnderflow => 4
  | .dataRange => 5
  | .keyRange => 6

/-- `SOUND_ON` is 1 (R34, R256): `ST != 0`. -/
def State.soundOn (s : State) : Bool := s.st != 0

/-- The level outputs of R34. -/
structure Outputs where
  fbOut : FrameBuffer
  stOut : Byte
  soundOn : Bool
  haltedOut : Bool
  causeOut : BitVec 3
  faultPcOut : Word
  faultWordOut : Word
deriving DecidableEq, Repr

/-- The outputs an observer sees between ticks (R34, R64). -/
def State.outputs (s : State) : Outputs where
  fbOut := s.fb
  stOut := s.st
  soundOn := s.soundOn
  haltedOut := s.halted
  causeOut := s.cause.code
  faultPcOut := s.faultPc
  faultWordOut := s.faultWord

/-- The instructions after which the picture is notified (spec/45_display.md R229): `Dxyn` and `00E0`. -/
def Instr.notifiesDisplay (i : Instr) : Bool :=
  match i with
  | .cls => true
  | .drwVxVyN _ _ _ => true
  | _ => false

/-- The instruction the next tick executes, where it reaches phase X with a legal word. -/
def State.nextInstr (s : State) : Option Instr :=
  if s.halted then none
  else
    match s.fetchWord with
    | none => none
    | some w => decodeLegal w

/-- The event `FB_CHANGED` of the tick that starts from `s` (R34, R229): it executes `Dxyn` or `00E0` without fault. It is a
function of the state BEFORE the tick, since R32 gives the block no draw flag (log entry 11). -/
def State.fbChanged (s : State) : Bool :=
  match s.nextInstr with
  | none => false
  | some i =>
    Instr.notifiesDisplay i &&
      (match step s with
        | .next t => !t.halted
        | .fault _ => false
        | .refused _ => false)

end Sys2Proof.Machine
end

