-- ==== Sys2Proof/Safety.lean ====
section
/-! DEFINITION. What the claims are stated in: a run without a fault, and the invariants of the state. -/

namespace Sys2Proof.Machine

/-- "no fault recorded": the premise of a claim about a program's result (spec/60_exceptions.md R244). -/
abbrev State.Running (s : State) : Prop := s.halted = false

/-- The status registers agree (spec/10_state.md R30): 0 while `HALTED = 0`; with `HALTED = 1` a cause is recorded, a tick
has started, `PC` is the recorded address, and no word is recorded for `FetchRange` (R244). -/
abbrev State.StatusAgree (s : State) : Prop :=
  (s.halted = false → s.cause = .none ∧ s.faultPc = 0 ∧ s.faultWord = 0) ∧
  (s.halted = true → s.cause ≠ .none ∧ s.started = true ∧ s.faultPc = s.pc ∧
    (s.cause = .fetchRange → s.faultWord = 0))

/-- The invariant: memory keeps its canonical form inside the 4096 bytes, `SP` is at most 16 (R25), the status registers
agree. -/
abbrev State.Inv (s : State) : Prop := s.mem.wf = true ∧ s.sp.toNat ≤ 16 ∧ s.StatusAgree

/-- The bound of R22: `PC` at most 0x10FE, and every saved return address at most 0x1000. -/
abbrev State.PcBounded (s : State) : Prop :=
  s.pc.toNat ≤ 0x10FE ∧ ∀ k : Fin 16, (s.stack[k]).toNat ≤ 0x1000

end Sys2Proof.Machine
end

