-- ==== Sys2Proof/Certificates/Slice0/Obligations.lean ====
section
/-! DEFINITION. The statements for the provers. Values are written as the spec's rules write them (sums over the integers,
remainders, bits), not as the model computes them.

`exec i s` is phase X: its `s` has `pc = A + 2` (R113), so `s.pc - 2` is `A`. -/

namespace Sys2Proof.Claims

open Sys2Proof.Machine

/-- The parts of the block's state besides the general registers. -/
inductive Part where
  | pc
  | i
  | sp
  | stack
  | dt
  | st
  | mem
  | fb
  /-- `HALTED`, `CAUSE`, `FAULT_PC`, `FAULT_WORD`. -/
  | fault
deriving DecidableEq, Repr

/-- From `s` to `t` nothing changed but the listed parts and general registers: every other register, every byte of memory,
every stack slot, every pixel reads as before. `STARTED` and the inputs are never changed by an instruction. -/
def FrameBut (parts : List Part) (regs : List Reg) (s t : State) : Prop :=
  (∀ r, r ∉ regs → t.reg r = s.reg r) ∧
  (Part.pc ∉ parts → t.pc = s.pc) ∧
  (Part.i ∉ parts → t.i = s.i) ∧
  (Part.sp ∉ parts → t.sp = s.sp) ∧
  (Part.stack ∉ parts → ∀ k, t.slot k = s.slot k) ∧
  (Part.dt ∉ parts → t.dt = s.dt) ∧
  (Part.st ∉ parts → t.st = s.st) ∧
  (Part.mem ∉ parts → ∀ a, t.byteAt a = s.byteAt a) ∧
  (Part.fb ∉ parts → ∀ y x, t.fb.pixel y x = s.fb.pixel y x) ∧
  (Part.fault ∉ parts → t.halted = s.halted ∧ t.cause = s.cause ∧ t.faultPc = s.faultPc ∧ t.faultWord = s.faultWord) ∧
  t.started = s.started ∧ t.keys = s.keys ∧ t.rand = s.rand ∧ t.inputs = s.inputs ∧ t.tickNo = s.tickNo

/-- The instruction completes: it answers a next state, and that state is as `P` says. -/
def Answers (i : Instr) (s : State) (P : State → Prop) : Prop := ∃ t, exec i s = .next t ∧ P t

/-- The instruction raises the fault `c`: the next state is halted at `A` with the cause, the address and the instruction's
word recorded, and nothing else has changed. -/
def Raises (c : Cause) (i : Instr) (s : State) : Prop :=
  Answers i s fun t =>
    t.pc = s.pc - 2 ∧ t.halted = true ∧ t.cause = c ∧ t.faultPc = s.pc - 2 ∧ t.faultWord = encode i ∧
    FrameBut [.pc, .fault] [] s t

/-- All bytes of the sprite exist (R227). -/
def SpriteInRange (s : State) (n : Nibble) : Prop := n.toNat = 0 ∨ s.i.toNat + n.toNat - 1 ≤ 0xFFF

/-- The bit at sprite row `row`, column `col` is 1: column 0 is bit 7 (R223, R228). -/
def SpriteBit (s : State) (row col : Nat) : Prop := (s.byteAt (s.effAddr row)).getLsbD (7 - col) = true

/-- Some 1 bit of the sprite lands on the pixel in row `py`, column `px`, each coordinate wrapped separately (R224). -/
def SpriteCovers (s : State) (x y : Reg) (n : Nibble) (py px : Nat) : Prop :=
  ∃ row col, row < n.toNat ∧ col < 8 ∧ SpriteBit s row col ∧
    ((s.reg x).toNat + col) % 64 = px ∧ ((s.reg y).toNat + row) % 32 = py

/-- `s` with the model's own input fields taken from `t` (log entry 2). -/
def withInputsOf (s t : State) : State := { s with keys := t.keys, rand := t.rand, inputs := t.inputs, tickNo := t.tickNo }

/-- The rows of the opcode map that a word matches. -/
def rowsMatching (w : Word) : List OpcodeRow := opcodeTable.filter fun r => r.matches w

end Sys2Proof.Claims

open Sys2Proof Sys2Proof.Machine Sys2Proof.Claims

/-! ### Encoding -/

/-- Words written out from R84 and the encodings of the opcode table decode to the instructions they stand for, one or more
per format. -/
def Obligations.WrittenWordsDecode : Prop :=
  decode [0x00, 0xE0] = .ok (.cls, []) ∧ decode [0x00, 0xEE] = .ok (.ret, []) ∧
  decode [0x1A, 0xBC] = .ok (.jpNnn 0xABC, []) ∧ decode [0x6C, 0xFF] = .ok (.ldVxNn 0xC 0xFF, []) ∧
  decode [0x81, 0x2E] = .ok (.shlVxVy 1 2, []) ∧ decode [0xD1, 0x24] = .ok (.drwVxVyN 1 2 4, []) ∧
  decode [0xF3, 0x0A, 0x12] = .ok (.ldVxK 3, [0x12]) ∧ decode [0xE1, 0xA1] = .ok (.sknpVx 1, [])

/-- Decoding the bytes of any instruction gives the instruction back with every operand, and leaves the bytes after it. -/
def Obligations.DecodeOfEncodeIsTheInstruction : Prop :=
  ∀ (i : Instr) (rest : List Byte), i.wellFormed = true → decode (encodeBytes i ++ rest) = .ok (i, rest)

/-- The other direction: a legal word is the encoding of the instruction it decodes to. -/
def Obligations.EncodeOfDecodeIsTheWord : Prop :=
  ∀ (w : Word) (i : Instr), decodeWord w = .ok i → encode i = w

/-- The decoder is the match against the 34 masks of R84: a word that matches a row decodes to an instruction of that row, a
word that matches none is illegal, and no word matches two rows. -/
def Obligations.DecoderIsTheOpcodeMap : Prop :=
  ∀ w : Word,
    match rowsMatching w with
    | [] => decodeWord w = .error (.illegalInstruction w)
    | [r] => ∃ i, decodeWord w = .ok i ∧ i.rowNumber = r.number
    | _ => False

/-- The illegal words are exactly the six families of R85. -/
def Obligations.IllegalWordsAreTheSixFamilies : Prop :=
  ∀ w : Word, decodeWord w = .error (.illegalInstruction w) ↔
    (fieldOp w = 0x0 ∧ w ≠ 0x00E0 ∧ w ≠ 0x00EE) ∨
    (fieldOp w = 0x5 ∧ fieldN w ≠ 0) ∨
    (fieldOp w = 0x8 ∧ fieldN w ∈ [0x8#4, 0x9#4, 0xA#4, 0xB#4, 0xC#4, 0xD#4, 0xF#4]) ∨
    (fieldOp w = 0x9 ∧ fieldN w ≠ 0) ∨
    (fieldOp w = 0xE ∧ fieldNN w ∉ [0x9E#8, 0xA1#8]) ∨
    (fieldOp w = 0xF ∧ fieldNN w ∉ [0x07#8, 0x0A#8, 0x15#8, 0x18#8, 0x1E#8, 0x29#8, 0x33#8, 0x55#8, 0x65#8])

/-! ### Register load and ALU -/

/-- `6xnn`, `7xnn`, `8xy0`, `8xy1`, `8xy2`, `8xy3` (R152 to R157): `V[x]` gets the value of the rule, for every `x`, `y`
(`x = 0xF` too), and nothing else changes, no flag among it. -/
def Obligations.LoadsAndBitwiseWriteOnlyTheDestination : Prop :=
  ∀ (s : State) (x y : Reg) (nn : Byte),
    Answers (.ldVxNn x nn) s (fun t => t.reg x = nn ∧ FrameBut [] [x] s t) ∧
    Answers (.addVxNn x nn) s (fun t => (t.reg x).toNat = ((s.reg x).toNat + nn.toNat) % 256 ∧ FrameBut [] [x] s t) ∧
    Answers (.ldVxVy x y) s (fun t => t.reg x = s.reg y ∧ FrameBut [] [x] s t) ∧
    Answers (.orVxVy x y) s (fun t =>
      (∀ k, (t.reg x).getLsbD k = ((s.reg x).getLsbD k || (s.reg y).getLsbD k)) ∧ FrameBut [] [x] s t) ∧
    Answers (.andVxVy x y) s (fun t =>
      (∀ k, (t.reg x).getLsbD k = ((s.reg x).getLsbD k && (s.reg y).getLsbD k)) ∧ FrameBut [] [x] s t) ∧
    Answers (.xorVxVy x y) s (fun t =>
      (∀ k, (t.reg x).getLsbD k = ((s.reg x).getLsbD k ^^ (s.reg y).getLsbD k)) ∧ FrameBut [] [x] s t)

/-- `8xy4`, `8xy5`, `8xy6`, `8xy7`, `8xyE`: the result and the flag, the flag being `V[0xF]`. For `x = 0xF` the flag remains
after `8xy4` and the result after the other four; the operands are the values before the instruction. What happens for
`x = 0xF` or `y = 0xF` is the spec's own decision (D11, D12 of spec/92_eei_decisions.md; log entry 7). -/
def Obligations.FlagArithmeticWritesResultAndFlag : Prop :=
  ∀ (s : State) (x y : Reg),
    Answers (.addVxVy x y) s (fun t =>
      t.reg 0xF = (if (s.reg x).toNat + (s.reg y).toNat > 255 then 1 else 0) ∧
      (x ≠ 0xF → (t.reg x).toNat = ((s.reg x).toNat + (s.reg y).toNat) % 256) ∧ FrameBut [] [x, 0xF] s t) ∧
    Answers (.subVxVy x y) s (fun t =>
      (t.reg x).toNat = ((s.reg x).toNat + 256 - (s.reg y).toNat) % 256 ∧
      (x ≠ 0xF → t.reg 0xF = (if (s.reg x).toNat > (s.reg y).toNat then 1 else 0)) ∧ FrameBut [] [x, 0xF] s t) ∧
    Answers (.shrVxVy x y) s (fun t =>
      (t.reg x).toNat = (s.reg y).toNat / 2 ∧
      (x ≠ 0xF → t.reg 0xF = (if (s.reg y).toNat % 2 = 1 then 1 else 0)) ∧ FrameBut [] [x, 0xF] s t) ∧
    Answers (.subnVxVy x y) s (fun t =>
      (t.reg x).toNat = ((s.reg y).toNat + 256 - (s.reg x).toNat) % 256 ∧
      (x ≠ 0xF → t.reg 0xF = (if (s.reg x).toNat < (s.reg y).toNat then 1 else 0)) ∧ FrameBut [] [x, 0xF] s t) ∧
    Answers (.shlVxVy x y) s (fun t =>
      (t.reg x).toNat = ((s.reg y).toNat * 2) % 256 ∧
      (x ≠ 0xF → t.reg 0xF = (if (s.reg y).toNat ≥ 128 then 1 else 0)) ∧ FrameBut [] [x, 0xF] s t)

/-! ### Control transfer -/

/-- `1nnn` (R132): `PC` is the zero-extended target, for every target, and nothing else changes. -/
def Obligations.JumpTakesItsTarget : Prop :=
  ∀ (s : State) (nnn : Addr), Answers (.jpNnn nnn) s fun t => t.pc.toNat = nnn.toNat ∧ FrameBut [.pc] [] s t

/-- `Bnnn` (R134): `PC` is the sum over the integers of the target and `V[0]`. That it is not reduced to 12 bits is the
spec's own decision (D16). -/
def Obligations.IndexedJumpAddsV0 : Prop :=
  ∀ (s : State) (nnn : Addr),
    Answers (.jpV0Nnn nnn) s fun t => t.pc.toNat = nnn.toNat + (s.reg 0).toNat ∧ FrameBut [.pc] [] s t

/-- `3xnn`, `4xnn`, `5xy0`, `9xy0` (R135 to R138): a further 2 is added to `PC` exactly when the comparison holds, and nothing
else changes. -/
def Obligations.ComparisonsSkip : Prop :=
  ∀ (s : State) (x y : Reg) (nn : Byte),
    Answers (.seVxNn x nn) s (fun t =>
      t.pc = (if (s.reg x).toNat = nn.toNat then s.pc + 2 else s.pc) ∧ FrameBut [.pc] [] s t) ∧
    Answers (.sneVxNn x nn) s (fun t =>
      t.pc = (if (s.reg x).toNat ≠ nn.toNat then s.pc + 2 else s.pc) ∧ FrameBut [.pc] [] s t) ∧
    Answers (.seVxVy x y) s (fun t =>
      t.pc = (if (s.reg x).toNat = (s.reg y).toNat then s.pc + 2 else s.pc) ∧ FrameBut [.pc] [] s t) ∧
    Answers (.sneVxVy x y) s (fun t =>
      t.pc = (if (s.reg x).toNat ≠ (s.reg y).toNat then s.pc + 2 else s.pc) ∧ FrameBut [.pc] [] s t)

/-- `2nnn` with a free slot and `00EE` with a used one: the pushed value is the advanced `PC`, the slot is `STACK[SP]` with the
old `SP`; the popped value is `STACK[SP - 1]`, and no slot is cleared. -/
def Obligations.CallPushesAndReturnPops : Prop :=
  ∀ (s : State) (nnn : Addr),
    (s.sp.toNat < 16 → Answers (.callNnn nnn) s fun t =>
      t.slot s.sp.toNat = some s.pc ∧ (∀ k, k ≠ s.sp.toNat → t.slot k = s.slot k) ∧
      t.sp.toNat = s.sp.toNat + 1 ∧ t.pc.toNat = nnn.toNat ∧ FrameBut [.pc, .sp, .stack] [] s t) ∧
    (0 < s.sp.toNat → s.sp.toNat ≤ 16 → Answers .ret s fun t =>
      s.slot (s.sp.toNat - 1) = some t.pc ∧ t.sp.toNat + 1 = s.sp.toNat ∧ FrameBut [.pc, .sp] [] s t)

/-- `2nnn` with `SP = 16` and `00EE` with `SP = 0` raise their faults. That they do is the spec's own decision (D6, D13). -/
def Obligations.FullAndEmptyStackFault : Prop :=
  ∀ (s : State) (nnn : Addr),
    (s.sp.toNat = 16 → Raises .stackOverflow (.callNnn nnn) s) ∧ (s.sp.toNat = 0 → Raises .stackUnderflow .ret s)

/-- The model's choice (log entry 6): in a state with `SP` 17 to 31, which R25 calls unreachable, the two stack instructions
stop by name. -/
def Obligations.UnreachableStackPointerStops : Prop :=
  ∀ (s : State) (nnn : Addr), s.sp.toNat > 16 →
    exec (.callNnn nnn) s = .fault .stackPointerOutOfRange ∧ exec .ret s = .fault .stackPointerOutOfRange

/-- A return resumes after the call: whatever a subroutine does that leaves `SP` and the slot the call wrote as the call left
them (calls and returns of its own among it, whose popped slots above keep their values, R36), `00EE` then takes `PC` to the
instruction after the call, with `SP` as before the call. -/
def Obligations.ReturnResumesAfterTheCall : Prop :=
  ∀ (s : State) (nnn : Addr), s.sp.toNat < 16 →
    Answers (.callNnn nnn) s fun t =>
      ∀ t' : State, t'.sp = t.sp → t'.slot s.sp.toNat = t.slot s.sp.toNat →
        Answers .ret t' fun u => u.pc = s.pc ∧ u.sp = s.sp

/-! ### Index register and memory -/

/-- `Annn` and `Fx29` (R181, R183): `I` is the zero-extended `nnn`, and 5 times all 8 bits of `V[x]`; nothing else changes. -/
def Obligations.IndexLoads : Prop :=
  ∀ (s : State) (x : Reg) (nnn : Addr),
    Answers (.ldINnn nnn) s (fun t => t.i.toNat = nnn.toNat ∧ FrameBut [.i] [] s t) ∧
    Answers (.ldFVx x) s (fun t => t.i.toNat = 5 * (s.reg x).toNat ∧ FrameBut [.i] [] s t)

/-- `Fx1E` (R182): a 16-bit sum, no flag. That values above 0xFFF are held unmasked is the spec's own decision (D15). -/
def Obligations.IndexAddIsSixteenBit : Prop :=
  ∀ (s : State) (x : Reg),
    Answers (.addIVx x) s fun t => t.i.toNat = (s.i.toNat + (s.reg x).toNat) % 65536 ∧ FrameBut [.i] [] s t

/-- `Fx33` in range: the decimal digits of `V[x]` at `I`, `I+1`, `I+2`, and no other byte changes. The range rule is the
spec's own decision (D3). -/
def Obligations.DecimalStoreWritesThreeDigits : Prop :=
  ∀ (s : State) (x : Reg), s.i.toNat + 2 ≤ 0xFFF →
    Answers (.ldBVx x) s fun t =>
      (t.byteAt (s.effAddr 0)).toNat = (s.reg x).toNat / 100 ∧
      (t.byteAt (s.effAddr 1)).toNat = (s.reg x).toNat / 10 % 10 ∧
      (t.byteAt (s.effAddr 2)).toNat = (s.reg x).toNat % 10 ∧
      (∀ a, a < s.effAddr 0 ∨ s.effAddr 2 < a → t.byteAt a = s.byteAt a) ∧ FrameBut [.mem] [] s t

/-- `Fx55` in range: `V[k]` at `I + k` for every `k` up to and including `x`, and no other byte changes. The range rule is
the spec's own decision (D3). -/
def Obligations.RegisterStoreWritesTheBlock : Prop :=
  ∀ (s : State) (x : Reg), s.i.toNat + x.toNat ≤ 0xFFF →
    Answers (.ldIIndVx x) s fun t =>
      (∀ r : Reg, r.toNat ≤ x.toNat → t.byteAt (s.effAddr r.toNat) = s.reg r) ∧
      (∀ a, a < s.effAddr 0 ∨ s.effAddr x.toNat < a → t.byteAt a = s.byteAt a) ∧ FrameBut [.mem] [] s t

/-- `Fx65` in range: `V[k]` is the byte at `I + k` for every `k` up to and including `x`, and the registers above `x` are
unchanged. The range rule is the spec's own decision (D3). -/
def Obligations.RegisterLoadReadsTheBlock : Prop :=
  ∀ (s : State) (x : Reg), s.i.toNat + x.toNat ≤ 0xFFF →
    Answers (.ldVxIInd x) s fun t =>
      (∀ r : Reg, r.toNat ≤ x.toNat → t.reg r = s.byteAt (s.effAddr r.toNat)) ∧
      (∀ r : Reg, x.toNat < r.toNat → t.reg r = s.reg r) ∧
      FrameBut [] ((List.range 16).map (BitVec.ofNat 4)) s t

/-- A data access that would touch an address above 0xFFF raises `DataRange` and has no effect, not even a partial one: the
spec's own decision (D3, D13, D27). -/
def Obligations.OutOfRangeAccessFaults : Prop :=
  ∀ (s : State) (x y : Reg) (n : Nibble),
    (s.i.toNat + 2 > 0xFFF → Raises .dataRange (.ldBVx x) s) ∧
    (s.i.toNat + x.toNat > 0xFFF → Raises .dataRange (.ldIIndVx x) s ∧ Raises .dataRange (.ldVxIInd x) s) ∧
    (n.toNat > 0 → s.i.toNat + n.toNat - 1 > 0xFFF → Raises .dataRange (.drwVxVyN x y n) s)

/-- `Fx55` then `Fx65` with the same `I` and memory restores `V[0]` to `V[x]`, whatever the registers held in between. -/
def Obligations.StoreThenLoadRestoresTheRegisters : Prop :=
  ∀ (s : State) (x : Reg), s.i.toNat + x.toNat ≤ 0xFFF →
    Answers (.ldIIndVx x) s fun t =>
      ∀ t' : State, t'.i = t.i → (∀ a, t'.byteAt a = t.byteAt a) →
        Answers (.ldVxIInd x) t' fun u => ∀ r : Reg, r.toNat ≤ x.toNat → u.reg r = s.reg r

/-- A fetch that overlaps a register store reads the stored registers, the lower one as the high byte, with no fence. -/
def Obligations.StoredCodeIsFetched : Prop :=
  ∀ (s : State) (x r : Reg) (hi lo : Byte), s.i.toNat + x.toNat ≤ 0xFFF → r.toNat + 1 ≤ x.toNat →
    s.reg r = hi → s.reg (r + 1) = lo →
    Answers (.ldIIndVx x) s fun t =>
      ∀ t' : State, (∀ a, t'.byteAt a = t.byteAt a) → t'.pc.toNat = s.i.toNat + r.toNat →
        ∃ w, t'.fetchWord = some w ∧ w.toNat = 256 * hi.toNat + lo.toNat

/-! ### Random, keys, timer access -/

/-- `Cxnn` (R201): each bit of `V[x]` is the bit of the sampled random byte where `nn` has a 1, and 0 where it has a 0. -/
def Obligations.RandomByteIsMasked : Prop :=
  ∀ (s : State) (x : Reg) (nn : Byte),
    Answers (.rndVxNn x nn) s fun t =>
      (∀ k, (t.reg x).getLsbD k = (s.rand.getLsbD k && nn.getLsbD k)) ∧ FrameBut [] [x] s t

/-- `Fx07`, `Fx15`, `Fx18` (R205 to R207) read and write the timers whole. -/
def Obligations.TimerAccess : Prop :=
  ∀ (s : State) (x : Reg),
    Answers (.ldVxDt x) s (fun t => t.reg x = s.dt ∧ FrameBut [] [x] s t) ∧
    Answers (.ldDtVx x) s (fun t => t.dt = s.reg x ∧ FrameBut [.dt] [] s t) ∧
    Answers (.ldStVx x) s (fun t => t.st = s.reg x ∧ FrameBut [.st] [] s t)

/-- `Ex9E` and `ExA1` with a key number: skip exactly when the key is held, and when it is not. With `V[x] > 15` both raise
`KeyRange`, the spec's own decision (D7, D13). -/
def Obligations.KeySkips : Prop :=
  ∀ (s : State) (x : Reg),
    ((s.reg x).toNat ≤ 15 →
      Answers (.skpVx x) s (fun t =>
        t.pc = (if s.keys.getLsbD (s.reg x).toNat = true then s.pc + 2 else s.pc) ∧ FrameBut [.pc] [] s t) ∧
      Answers (.sknpVx x) s (fun t =>
        t.pc = (if s.keys.getLsbD (s.reg x).toNat = true then s.pc else s.pc + 2) ∧ FrameBut [.pc] [] s t)) ∧
    ((s.reg x).toNat > 15 → Raises .keyRange (.skpVx x) s ∧ Raises .keyRange (.sknpVx x) s)

/-- `Fx0A` under this hardware's policy, the spec's own decisions D8, D9, D10 (log entry 3): with no key held `PC` goes back to
the instruction and nothing else changes; else `V[x]` is the smallest held key and nothing else changes. -/
def Obligations.KeyWaitTakesTheFirstHeldKey : Prop :=
  ∀ (s : State) (x : Reg),
    (s.keys = 0 → Answers (.ldVxK x) s fun t => t.pc = s.pc - 2 ∧ FrameBut [.pc] [] s t) ∧
    (∀ k, k < 16 → s.keys.getLsbD k = true → (∀ j, j < k → s.keys.getLsbD j = false) →
      Answers (.ldVxK x) s fun t => (t.reg x).toNat = k ∧ FrameBut [] [x] s t)

/-- With at most one key held the two policies of `Fx0A` give the same state. -/
def Obligations.KeyPoliciesAgreeOnOneKey : Prop :=
  ∀ (s : State) (x : Reg),
    (∀ j k, j < 16 → k < 16 → s.keys.getLsbD j = true → s.keys.getLsbD k = true → j = k) →
      s.keyWait .everyMatch x = s.keyWait .firstMatch x

/-- `EVERY_MATCH`, which is not this hardware's policy: with `m` keys held `PC = A + 2m`, and `V[x]` is the highest of them. -/
def Obligations.EveryMatchAdvancesPerKey : Prop :=
  ∀ (s : State) (x : Reg),
    (s.keyWait .everyMatch x).pc = s.pc - 2 + BitVec.ofNat 16 (2 * (List.range 16).countP fun k => s.keys.getLsbD k) ∧
    (∀ k, k < 16 → s.keys.getLsbD k = true → (∀ j, k < j → s.keys.getLsbD j = false) →
      ((s.keyWait .everyMatch x).reg x).toNat = k) ∧
    FrameBut [.pc] [x] s (s.keyWait .everyMatch x)

/-! ### Display -/

/-- The pixel primitive (R221): the pixel is inverted and no other pixel changes; a collision is recorded exactly where the
pixel was on; applied twice it restores the pixels, and a collision has then been recorded, by the second application where
the pixel was off. A sprite bit that is 0 touches nothing: in every sprite byte the pixel under a 0 bit stays as it was, and
what the byte records is exactly the collisions of its 1 bits; a byte of zeros changes nothing at all. -/
def Obligations.PixelToggle : Prop :=
  ∀ (fb : FrameBuffer) (collided : Bool) (y : Fin 32) (x : Fin 64),
    (toggle (fb, collided) y x).1.pixel y x = !fb.pixel y x ∧
    (∀ q p, q ≠ y ∨ p ≠ x → (toggle (fb, collided) y x).1.pixel q p = fb.pixel q p) ∧
    (toggle (fb, collided) y x).2 = (collided || fb.pixel y x) ∧
    (toggle (toggle (fb, collided) y x) y x) = (fb, true) ∧
    (∀ vx vy row, drawRow vx vy row 0 (fb, collided) = (fb, collided)) ∧
    (∀ (vx vy : Byte) (row : Nat) (b : Byte),
      (∀ (col : Nat) (q : Fin 32) (p : Fin 64), col < 8 → b.getLsbD (7 - col) = false →
        q.val = (vy.toNat + row) % 32 → p.val = (vx.toNat + col) % 64 →
        (drawRow vx vy row b (fb, collided)).1.pixel q p = fb.pixel q p) ∧
      ((drawRow vx vy row b (fb, collided)).2 = true ↔
        collided = true ∨ ∃ (col : Nat) (q : Fin 32) (p : Fin 64), col < 8 ∧ b.getLsbD (7 - col) = true ∧
          q.val = (vy.toNat + row) % 32 ∧ p.val = (vx.toNat + col) % 64 ∧ fb.pixel q p = true))

/-- `00E0`: every pixel is off, `V[0xF]` included nothing else changes, and a tick that executes it raises `FB_CHANGED` (the
latter the spec's own decision D21). -/
def Obligations.ClearTurnsEveryPixelOff : Prop :=
  (∀ s : State, Answers .cls s fun t => (∀ y x, t.fb.pixel y x = false) ∧ FrameBut [.fb] [] s t) ∧
  (∀ s : State, s.nextInstr = some .cls → s.fbChanged = true)

/-- `Dxyn`, the loops over rows and columns against what they mean: a pixel is inverted exactly when a 1 bit of the sprite
lands on it, `V[0xF]` is 1 exactly when one of those pixels was on, and nothing else changes. It holds for every `x`, `y`, `n`
with the sprite in memory; that the coordinates are the old `V[0xF]` for `x = 0xF` or `y = 0xF` is the spec's own decision
(D11), as is the range rule (D3, D27). -/
def Obligations.DrawInvertsExactlyTheSpritePixels : Prop :=
  ∀ (s : State) (x y : Reg) (n : Nibble), SpriteInRange s n →
    Answers (.drwVxVyN x y n) s fun t =>
      (∀ (py : Fin 32) (px : Fin 64),
        (SpriteCovers s x y n py px → t.fb.pixel py px = !s.fb.pixel py px) ∧
        (¬ SpriteCovers s x y n py px → t.fb.pixel py px = s.fb.pixel py px)) ∧
      ((∃ (py : Fin 32) (px : Fin 64), SpriteCovers s x y n py px ∧ s.fb.pixel py px = true) → t.reg 0xF = 1) ∧
      ((∀ (py : Fin 32) (px : Fin 64), SpriteCovers s x y n py px → s.fb.pixel py px = false) → t.reg 0xF = 0) ∧
      FrameBut [.fb] [0xF] s t

/-- Drawing the same sprite at the same place twice restores every pixel, and the second draw collides exactly when the first
one turned some pixel on. -/
def Obligations.DrawingTwiceRestores : Prop :=
  ∀ (s : State) (x y : Reg) (n : Nibble), SpriteInRange s n →
    Answers (.drwVxVyN x y n) s fun t =>
      t.reg x = s.reg x → t.reg y = s.reg y →
        Answers (.drwVxVyN x y n) t fun u =>
          (∀ py px, u.fb.pixel py px = s.fb.pixel py px) ∧
          ((∃ (py : Fin 32) (px : Fin 64), SpriteCovers s x y n py px ∧ s.fb.pixel py px = false) → u.reg 0xF = 1) ∧
          ((∀ (py : Fin 32) (px : Fin 64), SpriteCovers s x y n py px → s.fb.pixel py px = true) → u.reg 0xF = 0)

/-- `FB_CHANGED` of a tick: raised by `00E0`, raised by `Dxyn` exactly when the sprite is in memory, raised by no other
instruction and by no tick that executes none (a halted machine, `PC` above 0xFFE, an illegal word). The event is the spec's
own decision (D21, conflict C6). -/
def Obligations.DisplayNotification : Prop :=
  ∀ s : State,
    (∀ i, s.nextInstr = some i →
      (s.fbChanged = true ↔ i = .cls ∨ ∃ x y n, i = .drwVxVyN x y n ∧ SpriteInRange s n)) ∧
    (s.nextInstr = none → s.fbChanged = false) ∧
    (s.halted = true ∨ s.pc.toNat > 0xFFE ∨
        (∃ w, s.fetchWord = some w ∧ decodeWord w = .error (.illegalInstruction w)) →
      s.nextInstr = none)

/-! ### The tick -/

/-- A tick runs the decoded instruction. When the two bytes at `PC` decode to `i`, the tick is `exec i` on the state in which
`STARTED` is 1, the inputs are sampled, the timers have counted down and `PC` is advanced by 2, and nothing else has
changed. -/
def Obligations.StepRunsTheDecodedInstruction : Prop :=
  ∀ (s : State) (i : Instr), s.Running → s.pc.toNat ≤ 0xFFE →
    decode [s.byteAt s.pc.toNat, s.byteAt (s.pc.toNat + 1)] = .ok (i, []) →
    step s = exec i s.beginTick.timerPhase.advance ∧
    s.beginTick.timerPhase.advance.pc = s.pc + 2 ∧
    s.beginTick.timerPhase.advance.dt.toNat = s.dt.toNat - 1 ∧
    s.beginTick.timerPhase.advance.st.toNat = s.st.toNat - 1 ∧
    s.beginTick.started = true ∧
    (∀ p l, s.inputs = p :: l → s.beginTick.keys = p.keys ∧ s.beginTick.rand = p.rand ∧ s.beginTick.inputs = l) ∧
    FrameBut [.pc, .dt, .st] [] s.beginTick s.beginTick.timerPhase.advance ∧
    FrameBut [] [] (withInputsOf { s with started := true } s.beginTick) s.beginTick

/-- Fetch (R54): the byte at the lower address is the high byte of the word. That it is so whatever the parity of `PC` is the
spec's own decision (D5, log entry 20). -/
def Obligations.FetchIsBigEndian : Prop :=
  ∀ s : State, s.pc.toNat ≤ 0xFFE →
    ∃ w, s.fetchWord = some w ∧
      (∀ k, k < 8 → w.getLsbD (8 + k) = (s.byteAt s.pc.toNat).getLsbD k ∧
        w.getLsbD k = (s.byteAt (s.pc.toNat + 1)).getLsbD k)

/-- The timer phase (R252): in every tick of a machine that is not halted each timer is one less, 0 staying 0, whatever the
instruction, unless it writes that timer, which then is `V[x]` (R206, R207). That a tick that faults keeps the decrement is
the spec's own decision (D13, log entry 20). -/
def Obligations.TimersCountDownEveryTick : Prop :=
  ∀ s t : State, s.Running → step s = .next t →
    ((∀ x, s.nextInstr ≠ some (.ldDtVx x)) → t.dt.toNat = s.dt.toNat - 1) ∧
    ((∀ x, s.nextInstr ≠ some (.ldStVx x)) → t.st.toNat = s.st.toNat - 1) ∧
    (∀ x, s.nextInstr = some (.ldDtVx x) → t.dt = s.reg x ∧ t.st.toNat = s.st.toNat - 1) ∧
    (∀ x, s.nextInstr = some (.ldStVx x) → t.st = s.reg x ∧ t.dt.toNat = s.dt.toNat - 1)

/-- Delay timer arithmetic over a run (R253): over ticks none of which writes `DT`, `DT` after `j` of them is `max(k - j, 0)`,
and an `Fx07` in the `n`-th of them reads `max(k - n, 0)`. -/
def Obligations.DelayTimerOverTicks : Prop :=
  ∀ (run : Nat → State) (j : Nat),
    (∀ n, n < j → (run n).Running ∧ step (run n) = .next (run (n + 1)) ∧ ∀ x, (run n).nextInstr ≠ some (.ldDtVx x)) →
    (run j).dt.toNat = (run 0).dt.toNat - j ∧
    (∀ n x, n < j → (run n).nextInstr = some (.ldVxDt x) →
      ((run (n + 1)).reg x).toNat = (run 0).dt.toNat - (n + 1))

/-- Sound timer arithmetic over a run (R253): over ticks none of which writes `ST`, `ST` after `j` of them is `max(k - j, 0)`,
so the sound, on at the start, is off exactly from the `k`-th tick on. -/
def Obligations.SoundTimerOverTicks : Prop :=
  ∀ (run : Nat → State) (j : Nat),
    (∀ n, n < j → (run n).Running ∧ step (run n) = .next (run (n + 1)) ∧ ∀ x, (run n).nextInstr ≠ some (.ldStVx x)) →
    (run j).st.toNat = (run 0).st.toNat - j ∧
    ((run j).outputs.soundOn = false ↔ (run 0).st.toNat ≤ j)

/-- A tick that starts with `PC` above 0xFFE halts with `FetchRange` and the word 0, `PC` and everything but the timers as
before: the spec's own decision (D4, D13). -/
def Obligations.FetchAboveTheTopFaults : Prop :=
  ∀ s : State, s.Running → s.pc.toNat > 0xFFE →
    ∃ t, step s = .next t ∧ t.halted = true ∧ t.cause = .fetchRange ∧ t.faultPc = s.pc ∧ t.faultWord = 0 ∧
      t.dt.toNat = s.dt.toNat - 1 ∧ t.st.toNat = s.st.toNat - 1 ∧ FrameBut [.dt, .st, .fault] [] s.beginTick t

/-- A tick that fetches a word of no row halts with `IllegalInstruction` at its address, the word recorded, `PC` and
everything but the timers as before. The state of the halted machine is the spec's own decision (D13). -/
def Obligations.IllegalWordFaults : Prop :=
  ∀ (s : State) (w : Word), s.Running → s.fetchWord = some w → decodeWord w = .error (.illegalInstruction w) →
    ∃ t, step s = .next t ∧ t.halted = true ∧ t.cause = .illegalInstruction ∧ t.faultPc = s.pc ∧ t.faultWord = w ∧
      t.dt.toNat = s.dt.toNat - 1 ∧ t.st.toNat = s.st.toNat - 1 ∧ FrameBut [.dt, .st, .fault] [] s.beginTick t

/-- Faults are precise, over all instructions: a tick that halts leaves `PC` at the instruction and every register, byte of
memory, stack slot and pixel as before, the timers counted down, and records the cause, the address and the fetched word
(0 where none was fetched). The state of a halted machine is the spec's own decision (D13). -/
def Obligations.FaultsArePrecise : Prop :=
  ∀ s t : State, s.Running → step s = .next t → t.halted = true →
    t.cause ≠ .none ∧ t.faultPc = s.pc ∧ s.fetchWord.getD 0 = t.faultWord ∧
    t.dt.toNat = s.dt.toNat - 1 ∧ t.st.toNat = s.st.toNat - 1 ∧ FrameBut [.dt, .st, .fault] [] s.beginTick t

/-- A tick of a halted machine changes nothing of the block but `STARTED <- 1`: the spec's own decision (D14). The sample of
the inputs is the model's own (log entry 13). -/
def Obligations.HaltedTickChangesNothing : Prop :=
  ∀ s : State, s.halted = true →
    ∃ t, step s = .next t ∧ t.started = true ∧ t.outputs = s.outputs ∧
      FrameBut [] [] (withInputsOf { s with started := true } t) t

/-- Which instruction can raise what, exhaustively: only the eight named ones, each its own cause. -/
def Obligations.OnlyTheNamedInstructionsFault : Prop :=
  ∀ (i : Instr) (s t : State), s.Running → exec i s = .next t → t.halted = true →
    (i = .ret ∧ t.cause = .stackUnderflow) ∨
    (∃ nnn, i = .callNnn nnn ∧ t.cause = .stackOverflow) ∨
    (∃ x, (i = .skpVx x ∨ i = .sknpVx x) ∧ t.cause = .keyRange) ∨
    (((∃ x, i = .ldBVx x ∨ i = .ldIIndVx x ∨ i = .ldVxIInd x) ∨ ∃ x y n, i = .drwVxVyN x y n) ∧ t.cause = .dataRange)

/-- Which instruction can change what, over all instructions: the stack and `SP` only `2nnn` and `00EE`; memory only `Fx33` and
`Fx55`; the framebuffer only `Dxyn` and `00E0`; `DT` only `Fx15`; `ST` only `Fx18`. -/
def Obligations.OnlyTheNamedInstructionsWrite : Prop :=
  ∀ (i : Instr) (s t : State), exec i s = .next t →
    (i ≠ .ret → (∀ nnn, i ≠ .callNnn nnn) → t.sp = s.sp ∧ ∀ k, t.slot k = s.slot k) ∧
    ((∀ x, i ≠ .ldBVx x ∧ i ≠ .ldIIndVx x) → ∀ a, t.byteAt a = s.byteAt a) ∧
    (i ≠ .cls → (∀ x y n, i ≠ .drwVxVyN x y n) → ∀ y x, t.fb.pixel y x = s.fb.pixel y x) ∧
    ((∀ x, i ≠ .ldDtVx x) → t.dt = s.dt) ∧ ((∀ x, i ≠ .ldStVx x) → t.st = s.st)

/-- `I` is changed only by `Annn`, `Fx1E` and `Fx29`; `Fx33`, `Fx55`, `Fx65` and `Dxyn` leave it unchanged (R187). -/
def Obligations.IndexChangedOnlyByItsThreeInstructions : Prop :=
  ∀ (i : Instr) (s t : State), exec i s = .next t → t.i ≠ s.i →
    (∃ nnn, i = .ldINnn nnn) ∨ (∃ x, i = .addIVx x) ∨ ∃ x, i = .ldFVx x

/-! ### Invariants and runs -/

/-- The reset state meets both invariants. -/
def Obligations.ResetMeetsTheInvariants : Prop := State.reset.Inv ∧ State.reset.PcBounded

/-- Every tick keeps the invariant, from every state that meets it: canonical memory inside the 4096 bytes, `SP` at most 16,
status registers that agree. -/
def Obligations.StepKeepsTheInvariant : Prop := ∀ s t : State, s.Inv → step s = .next t → t.Inv

/-- The tick is total: from every state that meets the invariant it answers a next state. -/
def Obligations.TickIsTotal : Prop := ∀ s : State, s.Inv → ∃ t, step s = .next t

/-- Every tick keeps `PC` at most 0x10FE and the saved return addresses at most 0x1000, so no 16-bit wrap of `PC` occurs. It
rests on this hardware's key-wait policy (log entry 3). -/
def Obligations.StepKeepsThePcBound : Prop := ∀ s t : State, s.PcBounded → step s = .next t → t.PcBounded

/-- Whatever events the environment issues after reset (resets, loads of any bytes, ticks with any inputs, in any order), the
machine answers a next state and meets the invariants. -/
def Obligations.EveryRunFromResetAnswers : Prop :=
  ∀ events : List Event, ∃ t, runEvents State.reset events = .next t ∧ t.Inv ∧ t.PcBounded

/-! ### Reset, load, outputs, inputs -/

/-- The values after reset (R35): every one of the table, those of the status registers being the spec's own decisions (D13,
D17), the font bytes through `Config.font` alone (log entry 1). -/
def Obligations.ResetValues : Prop :=
  (∀ r, State.reset.reg r = 0) ∧ State.reset.pc.toNat = 0x200 ∧ State.reset.i = 0 ∧
  (∀ k, k < 16 → State.reset.slot k = some 0) ∧ State.reset.sp = 0 ∧ State.reset.dt = 0 ∧ State.reset.st = 0 ∧
  Config.font.length = 80 ∧ (∀ a, a < 80 → some (State.reset.byteAt a) = Config.font[a]?) ∧
  (∀ a, 80 ≤ a → State.reset.byteAt a = 0) ∧ (∀ y x, State.reset.fb.pixel y x = false) ∧
  State.reset.halted = false ∧ State.reset.cause.code = 0 ∧ State.reset.faultPc = 0 ∧ State.reset.faultWord = 0 ∧
  State.reset.started = false

/-- The `reset` event puts every component of the block to its reset value, whatever the state was; that it may come at any
time is the spec's own decision (D23). -/
def Obligations.ResetEventRestoresTheResetState : Prop :=
  ∀ s : State, ∃ t, onEvent s .reset = .next t ∧
    FrameBut [] [] (withInputsOf State.reset s) t ∧
    t.outputs = State.reset.outputs

/-- `load`: before the first tick the bytes are copied to 0x200 on, at most 3584 of them, and nothing else changes; after it
the request is ignored, the spec's own decision (D17). -/
def Obligations.LoadCopiesTheProgram : Prop :=
  ∀ (s : State) (bytes : List Byte), ∃ t, onEvent s (.load bytes) = .next t ∧ FrameBut [.mem] [] s t ∧
    (s.started = true → ∀ a, t.byteAt a = s.byteAt a) ∧
    (s.started = false →
      (∀ k, k < bytes.length → k < 3584 → some (t.byteAt (0x200 + k)) = bytes[k]?) ∧
      (∀ a, a < 0x200 ∨ 0x200 + bytes.length ≤ a ∨ 0x1000 ≤ a → t.byteAt a = s.byteAt a))

/-- Sound output (R256): `ST_OUT` is `ST`, and `SOUND_ON` is 1 exactly when it is not 0. -/
def Obligations.SoundOutputs : Prop :=
  ∀ s : State, s.outputs.stOut = s.st ∧ (s.outputs.soundOn = true ↔ s.st.toNat ≠ 0)

/-- The level outputs (R34) and the cause codes (R241): the picture pixel by pixel, `HALTED`, `FAULT_PC`, `FAULT_WORD` as they
are, and `CAUSE_OUT` the code of the cause, 1 to 6, 7 never; while the machine is not halted the cause, the address and the
word are all 0 in every state whose status registers agree. The status registers and the codes are the spec's own decision
(D13), as are the outputs (D21). -/
def Obligations.LevelOutputs : Prop :=
  ∀ s : State,
    (∀ y x, s.outputs.fbOut.pixel y x = s.fb.pixel y x) ∧ s.outputs.stOut = s.st ∧
    (s.outputs.soundOn = true ↔ s.st.toNat ≠ 0) ∧ (s.outputs.haltedOut = true ↔ s.halted = true) ∧
    (s.outputs.causeOut.toNat = 0 ↔ s.cause = .none) ∧
    (s.outputs.causeOut.toNat = 1 ↔ s.cause = .illegalInstruction) ∧
    (s.outputs.causeOut.toNat = 2 ↔ s.cause = .fetchRange) ∧
    (s.outputs.causeOut.toNat = 3 ↔ s.cause = .stackOverflow) ∧
    (s.outputs.causeOut.toNat = 4 ↔ s.cause = .stackUnderflow) ∧
    (s.outputs.causeOut.toNat = 5 ↔ s.cause = .dataRange) ∧
    (s.outputs.causeOut.toNat = 6 ↔ s.cause = .keyRange) ∧ s.outputs.causeOut.toNat ≠ 7 ∧
    s.outputs.faultPcOut = s.faultPc ∧ s.outputs.faultWordOut = s.faultWord ∧
    (s.StatusAgree → s.outputs.haltedOut = false →
      s.outputs.causeOut = 0 ∧ s.outputs.faultPcOut = 0 ∧ s.outputs.faultWordOut = 0)

/-- A tick takes exactly the pair presented to it (one sample a tick, the spec's own decision D26): that pair is what its
instruction sees, the pairs of later ticks stay, and the state it leaves depends on nothing else of the environment, neither on
the sample of an earlier tick nor on what is presented to later ones nor on the count of ticks. -/
def Obligations.TickDependsOnItsInputsAlone : Prop :=
  ∀ (s t : State) (keys : BitVec 16) (rand : Byte), tick s keys rand = .next t →
    t.keys = keys ∧ t.rand = rand ∧ t.inputs = s.inputs ∧
    (∀ i, s.nextInstr = some i → ∃ u : State, u.keys = keys ∧ u.rand = rand ∧ exec i u = .next t) ∧
    ∀ (k : BitVec 16) (r : Byte) (l : List TickInput) (n : Nat), ∃ m,
      tick { s with keys := k, rand := r, inputs := l, tickNo := n } keys rand = .next { t with inputs := l, tickNo := m }

/-- An instruction other than `Cxnn` ignores `RAND`, and one other than `Ex9E`, `ExA1`, `Fx0A` ignores `KEYS`. -/
def Obligations.OtherInstructionsIgnoreTheInputs : Prop :=
  ∀ (i : Instr) (s t : State), exec i s = .next t →
    ((∀ x nn, i ≠ .rndVxNn x nn) → ∀ r, exec i { s with rand := r } = .next { t with rand := r }) ∧
    ((∀ x, i ≠ .skpVx x ∧ i ≠ .sknpVx x ∧ i ≠ .ldVxK x) → ∀ k, exec i { s with keys := k } = .next { t with keys := k })

/-- The control FSM of R116 runs the tick: from rest, a `tick` request and the phases TIMER, FETCH, ADVANCE, EXECUTE end at
rest in the state the atomic tick leaves, in `IDLE` or in `HALT`, and a stop is the same stop. -/
def Obligations.PhasesRunTheTick : Prop :=
  ∀ s : State, ∃ c, (FsmConf.atRest s).tick = some c ∧
    match step s with
    | .next t => c.phases 4 = .next (FsmConf.atRest t) ∧ ((FsmConf.atRest t).ctrl = .idle ∨ (FsmConf.atRest t).ctrl = .halt)
    | .fault r => c.phases 4 = .fault r
    | .refused r => c.phases 4 = .refused r
end

