-- ==== Sys2Proof/Laws/Decode.lean ====
section
/-! SUPPORT. The laws of the formats: what each field of a format reads as, and every instruction is well formed. -/

namespace Sys2Proof

/-! ### Bits of the formats -/

theorem getLsbD_formAddr (op : BitVec 4) (nnn : Addr) (k : Nat) :
    (formAddr op nnn).getLsbD k = if k < 12 then nnn.getLsbD k else op.getLsbD (k - 12) :=
  BitVec.getLsbD_append

theorem getLsbD_formRegImm (op : BitVec 4) (x : Reg) (nn : Byte) (k : Nat) :
    (formRegImm op x nn).getLsbD k =
      if k < 8 then nn.getLsbD k else if k - 8 < 4 then x.getLsbD (k - 8) else op.getLsbD (k - 8 - 4) :=
  (BitVec.getLsbD_append (x := op ++ x) (y := nn)).trans (by rw [BitVec.getLsbD_append])

theorem getLsbD_formRegReg (op : BitVec 4) (x y : Reg) (n : Nibble) (k : Nat) :
    (formRegReg op x y n).getLsbD k =
      if k < 4 then n.getLsbD k else if k - 4 < 4 then y.getLsbD (k - 4)
      else if k - 4 - 4 < 4 then x.getLsbD (k - 4 - 4) else op.getLsbD (k - 4 - 4 - 4) :=
  (BitVec.getLsbD_append (x := op ++ x ++ y) (y := n)).trans (by rw [BitVec.getLsbD_append, BitVec.getLsbD_append])

/-! ### Fields of the formats -/

@[simp] theorem fieldOp_formAddr (op : BitVec 4) (nnn : Addr) : fieldOp (formAddr op nnn) = op :=
  BitVec.extractLsb'_append_eq_left

@[simp] theorem fieldNNN_formAddr (op : BitVec 4) (nnn : Addr) : fieldNNN (formAddr op nnn) = nnn :=
  BitVec.extractLsb'_append_eq_right

@[simp] theorem fieldOp_formRegImm (op : BitVec 4) (x : Reg) (nn : Byte) : fieldOp (formRegImm op x nn) = op := by
  apply BitVec.eq_of_getLsbD_eq
  intro k hk
  simp [fieldOp, getLsbD_formRegImm, hk, show ¬ 12 + k < 8 by omega, show ¬ 12 + k - 8 < 4 by omega,
    show 12 + k - 8 - 4 = k by omega]

@[simp] theorem fieldX_formRegImm (op : BitVec 4) (x : Reg) (nn : Byte) : fieldX (formRegImm op x nn) = x := by
  apply BitVec.eq_of_getLsbD_eq
  intro k hk
  simp [fieldX, getLsbD_formRegImm, hk]

@[simp] theorem fieldNN_formRegImm (op : BitVec 4) (x : Reg) (nn : Byte) : fieldNN (formRegImm op x nn) = nn :=
  BitVec.extractLsb'_append_eq_right

@[simp] theorem fieldOp_formRegReg (op : BitVec 4) (x y : Reg) (n : Nibble) : fieldOp (formRegReg op x y n) = op := by
  apply BitVec.eq_of_getLsbD_eq
  intro k hk
  simp [fieldOp, getLsbD_formRegReg, hk, show ¬ 12 + k < 4 by omega, show ¬ 12 + k - 4 < 4 by omega,
    show ¬ 12 + k - 4 - 4 < 4 by omega, show 12 + k - 4 - 4 - 4 = k by omega]

@[simp] theorem fieldX_formRegReg (op : BitVec 4) (x y : Reg) (n : Nibble) : fieldX (formRegReg op x y n) = x := by
  apply BitVec.eq_of_getLsbD_eq
  intro k hk
  simp [fieldX, getLsbD_formRegReg, hk, show ¬ 8 + k < 4 by omega, show ¬ 8 + k - 4 < 4 by omega,
    show 8 + k - 4 - 4 = k by omega]

@[simp] theorem fieldY_formRegReg (op : BitVec 4) (x y : Reg) (n : Nibble) : fieldY (formRegReg op x y n) = y := by
  apply BitVec.eq_of_getLsbD_eq
  intro k hk
  simp [fieldY, getLsbD_formRegReg, hk]

@[simp] theorem fieldN_formRegReg (op : BitVec 4) (x y : Reg) (n : Nibble) : fieldN (formRegReg op x y n) = n :=
  BitVec.extractLsb'_append_eq_right

/-- The two bytes of a word give the word back (R54). -/
@[simp] theorem wordOfBytes_bytes (w : Word) : wordOfBytes (highByte w) (lowByte w) = w := by
  apply BitVec.eq_of_getLsbD_eq
  intro k hk
  refine (BitVec.getLsbD_append (x := highByte w) (y := lowByte w)).trans ?_
  by_cases h : k < 8
  · simp [lowByte, h]
  · simp [highByte, h, show k - 8 < 8 by omega, show 8 + (k - 8) = k by omega]

/-! ### Well-formedness -/

/-- A bit vector fits its own width. -/
theorem fits_toNat {w : Nat} (v : BitVec w) : fits w v.toNat = true := by simp [fits, v.isLt]

/-- The operand types are exactly the fields, so every instruction is well formed. -/
theorem wellFormed_all (i : Instr) : i.wellFormed = true := by
  cases i <;> simp [Instr.wellFormed, Instr.regFits, Instr.addrFits, Instr.immFits, Instr.rowsFit, fits_toNat]

end Sys2Proof
end

