-- ==== Sys2Proof/Laws/State.lean ====
section
/-! SUPPORT. The small lemmas of the state: one per field per update, then what each accessor reads after each update. -/

namespace Sys2Proof.Machine

variable (s : State)

/-! ### setReg -/

@[simp] theorem State.setReg_pc (r : Reg) (b : Byte) : (s.setReg r b).pc = s.pc := rfl
@[simp] theorem State.setReg_i (r : Reg) (b : Byte) : (s.setReg r b).i = s.i := rfl
@[simp] theorem State.setReg_stack (r : Reg) (b : Byte) : (s.setReg r b).stack = s.stack := rfl
@[simp] theorem State.setReg_sp (r : Reg) (b : Byte) : (s.setReg r b).sp = s.sp := rfl
@[simp] theorem State.setReg_dt (r : Reg) (b : Byte) : (s.setReg r b).dt = s.dt := rfl
@[simp] theorem State.setReg_st (r : Reg) (b : Byte) : (s.setReg r b).st = s.st := rfl
@[simp] theorem State.setReg_mem (r : Reg) (b : Byte) : (s.setReg r b).mem = s.mem := rfl
@[simp] theorem State.setReg_fb (r : Reg) (b : Byte) : (s.setReg r b).fb = s.fb := rfl
@[simp] theorem State.setReg_halted (r : Reg) (b : Byte) : (s.setReg r b).halted = s.halted := rfl
@[simp] theorem State.setReg_cause (r : Reg) (b : Byte) : (s.setReg r b).cause = s.cause := rfl
@[simp] theorem State.setReg_faultPc (r : Reg) (b : Byte) : (s.setReg r b).faultPc = s.faultPc := rfl
@[simp] theorem State.setReg_faultWord (r : Reg) (b : Byte) : (s.setReg r b).faultWord = s.faultWord := rfl
@[simp] theorem State.setReg_started (r : Reg) (b : Byte) : (s.setReg r b).started = s.started := rfl
@[simp] theorem State.setReg_keys (r : Reg) (b : Byte) : (s.setReg r b).keys = s.keys := rfl
@[simp] theorem State.setReg_rand (r : Reg) (b : Byte) : (s.setReg r b).rand = s.rand := rfl
@[simp] theorem State.setReg_inputs (r : Reg) (b : Byte) : (s.setReg r b).inputs = s.inputs := rfl
@[simp] theorem State.setReg_tickNo (r : Reg) (b : Byte) : (s.setReg r b).tickNo = s.tickNo := rfl

/-! ### setFlag -/

@[simp] theorem State.setFlag_pc (f : Bool) : (s.setFlag f).pc = s.pc := rfl
@[simp] theorem State.setFlag_i (f : Bool) : (s.setFlag f).i = s.i := rfl
@[simp] theorem State.setFlag_stack (f : Bool) : (s.setFlag f).stack = s.stack := rfl
@[simp] theorem State.setFlag_sp (f : Bool) : (s.setFlag f).sp = s.sp := rfl
@[simp] theorem State.setFlag_dt (f : Bool) : (s.setFlag f).dt = s.dt := rfl
@[simp] theorem State.setFlag_st (f : Bool) : (s.setFlag f).st = s.st := rfl
@[simp] theorem State.setFlag_mem (f : Bool) : (s.setFlag f).mem = s.mem := rfl
@[simp] theorem State.setFlag_fb (f : Bool) : (s.setFlag f).fb = s.fb := rfl
@[simp] theorem State.setFlag_halted (f : Bool) : (s.setFlag f).halted = s.halted := rfl
@[simp] theorem State.setFlag_cause (f : Bool) : (s.setFlag f).cause = s.cause := rfl
@[simp] theorem State.setFlag_faultPc (f : Bool) : (s.setFlag f).faultPc = s.faultPc := rfl
@[simp] theorem State.setFlag_faultWord (f : Bool) : (s.setFlag f).faultWord = s.faultWord := rfl
@[simp] theorem State.setFlag_started (f : Bool) : (s.setFlag f).started = s.started := rfl
@[simp] theorem State.setFlag_keys (f : Bool) : (s.setFlag f).keys = s.keys := rfl
@[simp] theorem State.setFlag_rand (f : Bool) : (s.setFlag f).rand = s.rand := rfl
@[simp] theorem State.setFlag_inputs (f : Bool) : (s.setFlag f).inputs = s.inputs := rfl
@[simp] theorem State.setFlag_tickNo (f : Bool) : (s.setFlag f).tickNo = s.tickNo := rfl

/-! ### setPc -/

@[simp] theorem State.setPc_v (w : Word) : (s.setPc w).v = s.v := rfl
@[simp] theorem State.setPc_pc (w : Word) : (s.setPc w).pc = w := rfl
@[simp] theorem State.setPc_i (w : Word) : (s.setPc w).i = s.i := rfl
@[simp] theorem State.setPc_stack (w : Word) : (s.setPc w).stack = s.stack := rfl
@[simp] theorem State.setPc_sp (w : Word) : (s.setPc w).sp = s.sp := rfl
@[simp] theorem State.setPc_dt (w : Word) : (s.setPc w).dt = s.dt := rfl
@[simp] theorem State.setPc_st (w : Word) : (s.setPc w).st = s.st := rfl
@[simp] theorem State.setPc_mem (w : Word) : (s.setPc w).mem = s.mem := rfl
@[simp] theorem State.setPc_fb (w : Word) : (s.setPc w).fb = s.fb := rfl
@[simp] theorem State.setPc_halted (w : Word) : (s.setPc w).halted = s.halted := rfl
@[simp] theorem State.setPc_cause (w : Word) : (s.setPc w).cause = s.cause := rfl
@[simp] theorem State.setPc_faultPc (w : Word) : (s.setPc w).faultPc = s.faultPc := rfl
@[simp] theorem State.setPc_faultWord (w : Word) : (s.setPc w).faultWord = s.faultWord := rfl
@[simp] theorem State.setPc_started (w : Word) : (s.setPc w).started = s.started := rfl
@[simp] theorem State.setPc_keys (w : Word) : (s.setPc w).keys = s.keys := rfl
@[simp] theorem State.setPc_rand (w : Word) : (s.setPc w).rand = s.rand := rfl
@[simp] theorem State.setPc_inputs (w : Word) : (s.setPc w).inputs = s.inputs := rfl
@[simp] theorem State.setPc_tickNo (w : Word) : (s.setPc w).tickNo = s.tickNo := rfl

/-! ### setI -/

@[simp] theorem State.setI_v (w : Word) : (s.setI w).v = s.v := rfl
@[simp] theorem State.setI_pc (w : Word) : (s.setI w).pc = s.pc := rfl
@[simp] theorem State.setI_i (w : Word) : (s.setI w).i = w := rfl
@[simp] theorem State.setI_stack (w : Word) : (s.setI w).stack = s.stack := rfl
@[simp] theorem State.setI_sp (w : Word) : (s.setI w).sp = s.sp := rfl
@[simp] theorem State.setI_dt (w : Word) : (s.setI w).dt = s.dt := rfl
@[simp] theorem State.setI_st (w : Word) : (s.setI w).st = s.st := rfl
@[simp] theorem State.setI_mem (w : Word) : (s.setI w).mem = s.mem := rfl
@[simp] theorem State.setI_fb (w : Word) : (s.setI w).fb = s.fb := rfl
@[simp] theorem State.setI_halted (w : Word) : (s.setI w).halted = s.halted := rfl
@[simp] theorem State.setI_cause (w : Word) : (s.setI w).cause = s.cause := rfl
@[simp] theorem State.setI_faultPc (w : Word) : (s.setI w).faultPc = s.faultPc := rfl
@[simp] theorem State.setI_faultWord (w : Word) : (s.setI w).faultWord = s.faultWord := rfl
@[simp] theorem State.setI_started (w : Word) : (s.setI w).started = s.started := rfl
@[simp] theorem State.setI_keys (w : Word) : (s.setI w).keys = s.keys := rfl
@[simp] theorem State.setI_rand (w : Word) : (s.setI w).rand = s.rand := rfl
@[simp] theorem State.setI_inputs (w : Word) : (s.setI w).inputs = s.inputs := rfl
@[simp] theorem State.setI_tickNo (w : Word) : (s.setI w).tickNo = s.tickNo := rfl

/-! ### setSp -/

@[simp] theorem State.setSp_v (n : BitVec 5) : (s.setSp n).v = s.v := rfl
@[simp] theorem State.setSp_pc (n : BitVec 5) : (s.setSp n).pc = s.pc := rfl
@[simp] theorem State.setSp_i (n : BitVec 5) : (s.setSp n).i = s.i := rfl
@[simp] theorem State.setSp_stack (n : BitVec 5) : (s.setSp n).stack = s.stack := rfl
@[simp] theorem State.setSp_sp (n : BitVec 5) : (s.setSp n).sp = n := rfl
@[simp] theorem State.setSp_dt (n : BitVec 5) : (s.setSp n).dt = s.dt := rfl
@[simp] theorem State.setSp_st (n : BitVec 5) : (s.setSp n).st = s.st := rfl
@[simp] theorem State.setSp_mem (n : BitVec 5) : (s.setSp n).mem = s.mem := rfl
@[simp] theorem State.setSp_fb (n : BitVec 5) : (s.setSp n).fb = s.fb := rfl
@[simp] theorem State.setSp_halted (n : BitVec 5) : (s.setSp n).halted = s.halted := rfl
@[simp] theorem State.setSp_cause (n : BitVec 5) : (s.setSp n).cause = s.cause := rfl
@[simp] theorem State.setSp_faultPc (n : BitVec 5) : (s.setSp n).faultPc = s.faultPc := rfl
@[simp] theorem State.setSp_faultWord (n : BitVec 5) : (s.setSp n).faultWord = s.faultWord := rfl
@[simp] theorem State.setSp_started (n : BitVec 5) : (s.setSp n).started = s.started := rfl
@[simp] theorem State.setSp_keys (n : BitVec 5) : (s.setSp n).keys = s.keys := rfl
@[simp] theorem State.setSp_rand (n : BitVec 5) : (s.setSp n).rand = s.rand := rfl
@[simp] theorem State.setSp_inputs (n : BitVec 5) : (s.setSp n).inputs = s.inputs := rfl
@[simp] theorem State.setSp_tickNo (n : BitVec 5) : (s.setSp n).tickNo = s.tickNo := rfl

/-! ### setDt -/

@[simp] theorem State.setDt_v (b : Byte) : (s.setDt b).v = s.v := rfl
@[simp] theorem State.setDt_pc (b : Byte) : (s.setDt b).pc = s.pc := rfl
@[simp] theorem State.setDt_i (b : Byte) : (s.setDt b).i = s.i := rfl
@[simp] theorem State.setDt_stack (b : Byte) : (s.setDt b).stack = s.stack := rfl
@[simp] theorem State.setDt_sp (b : Byte) : (s.setDt b).sp = s.sp := rfl
@[simp] theorem State.setDt_dt (b : Byte) : (s.setDt b).dt = b := rfl
@[simp] theorem State.setDt_st (b : Byte) : (s.setDt b).st = s.st := rfl
@[simp] theorem State.setDt_mem (b : Byte) : (s.setDt b).mem = s.mem := rfl
@[simp] theorem State.setDt_fb (b : Byte) : (s.setDt b).fb = s.fb := rfl
@[simp] theorem State.setDt_halted (b : Byte) : (s.setDt b).halted = s.halted := rfl
@[simp] theorem State.setDt_cause (b : Byte) : (s.setDt b).cause = s.cause := rfl
@[simp] theorem State.setDt_faultPc (b : Byte) : (s.setDt b).faultPc = s.faultPc := rfl
@[simp] theorem State.setDt_faultWord (b : Byte) : (s.setDt b).faultWord = s.faultWord := rfl
@[simp] theorem State.setDt_started (b : Byte) : (s.setDt b).started = s.started := rfl
@[simp] theorem State.setDt_keys (b : Byte) : (s.setDt b).keys = s.keys := rfl
@[simp] theorem State.setDt_rand (b : Byte) : (s.setDt b).rand = s.rand := rfl
@[simp] theorem State.setDt_inputs (b : Byte) : (s.setDt b).inputs = s.inputs := rfl
@[simp] theorem State.setDt_tickNo (b : Byte) : (s.setDt b).tickNo = s.tickNo := rfl

/-! ### setSt -/

@[simp] theorem State.setSt_v (b : Byte) : (s.setSt b).v = s.v := rfl
@[simp] theorem State.setSt_pc (b : Byte) : (s.setSt b).pc = s.pc := rfl
@[simp] theorem State.setSt_i (b : Byte) : (s.setSt b).i = s.i := rfl
@[simp] theorem State.setSt_stack (b : Byte) : (s.setSt b).stack = s.stack := rfl
@[simp] theorem State.setSt_sp (b : Byte) : (s.setSt b).sp = s.sp := rfl
@[simp] theorem State.setSt_dt (b : Byte) : (s.setSt b).dt = s.dt := rfl
@[simp] theorem State.setSt_st (b : Byte) : (s.setSt b).st = b := rfl
@[simp] theorem State.setSt_mem (b : Byte) : (s.setSt b).mem = s.mem := rfl
@[simp] theorem State.setSt_fb (b : Byte) : (s.setSt b).fb = s.fb := rfl
@[simp] theorem State.setSt_halted (b : Byte) : (s.setSt b).halted = s.halted := rfl
@[simp] theorem State.setSt_cause (b : Byte) : (s.setSt b).cause = s.cause := rfl
@[simp] theorem State.setSt_faultPc (b : Byte) : (s.setSt b).faultPc = s.faultPc := rfl
@[simp] theorem State.setSt_faultWord (b : Byte) : (s.setSt b).faultWord = s.faultWord := rfl
@[simp] theorem State.setSt_started (b : Byte) : (s.setSt b).started = s.started := rfl
@[simp] theorem State.setSt_keys (b : Byte) : (s.setSt b).keys = s.keys := rfl
@[simp] theorem State.setSt_rand (b : Byte) : (s.setSt b).rand = s.rand := rfl
@[simp] theorem State.setSt_inputs (b : Byte) : (s.setSt b).inputs = s.inputs := rfl
@[simp] theorem State.setSt_tickNo (b : Byte) : (s.setSt b).tickNo = s.tickNo := rfl

/-! ### setSlot -/

@[simp] theorem State.setSlot_v (k : Nat) (w : Word) : (s.setSlot k w).v = s.v := rfl
@[simp] theorem State.setSlot_pc (k : Nat) (w : Word) : (s.setSlot k w).pc = s.pc := rfl
@[simp] theorem State.setSlot_i (k : Nat) (w : Word) : (s.setSlot k w).i = s.i := rfl
@[simp] theorem State.setSlot_stack (k : Nat) (w : Word) : (s.setSlot k w).stack = s.stack.setIfInBounds k w := rfl
@[simp] theorem State.setSlot_sp (k : Nat) (w : Word) : (s.setSlot k w).sp = s.sp := rfl
@[simp] theorem State.setSlot_dt (k : Nat) (w : Word) : (s.setSlot k w).dt = s.dt := rfl
@[simp] theorem State.setSlot_st (k : Nat) (w : Word) : (s.setSlot k w).st = s.st := rfl
@[simp] theorem State.setSlot_mem (k : Nat) (w : Word) : (s.setSlot k w).mem = s.mem := rfl
@[simp] theorem State.setSlot_fb (k : Nat) (w : Word) : (s.setSlot k w).fb = s.fb := rfl
@[simp] theorem State.setSlot_halted (k : Nat) (w : Word) : (s.setSlot k w).halted = s.halted := rfl
@[simp] theorem State.setSlot_cause (k : Nat) (w : Word) : (s.setSlot k w).cause = s.cause := rfl
@[simp] theorem State.setSlot_faultPc (k : Nat) (w : Word) : (s.setSlot k w).faultPc = s.faultPc := rfl
@[simp] theorem State.setSlot_faultWord (k : Nat) (w : Word) : (s.setSlot k w).faultWord = s.faultWord := rfl
@[simp] theorem State.setSlot_started (k : Nat) (w : Word) : (s.setSlot k w).started = s.started := rfl
@[simp] theorem State.setSlot_keys (k : Nat) (w : Word) : (s.setSlot k w).keys = s.keys := rfl
@[simp] theorem State.setSlot_rand (k : Nat) (w : Word) : (s.setSlot k w).rand = s.rand := rfl
@[simp] theorem State.setSlot_inputs (k : Nat) (w : Word) : (s.setSlot k w).inputs = s.inputs := rfl
@[simp] theorem State.setSlot_tickNo (k : Nat) (w : Word) : (s.setSlot k w).tickNo = s.tickNo := rfl

/-! ### setFb -/

@[simp] theorem State.setFb_v (f : FrameBuffer) : (s.setFb f).v = s.v := rfl
@[simp] theorem State.setFb_pc (f : FrameBuffer) : (s.setFb f).pc = s.pc := rfl
@[simp] theorem State.setFb_i (f : FrameBuffer) : (s.setFb f).i = s.i := rfl
@[simp] theorem State.setFb_stack (f : FrameBuffer) : (s.setFb f).stack = s.stack := rfl
@[simp] theorem State.setFb_sp (f : FrameBuffer) : (s.setFb f).sp = s.sp := rfl
@[simp] theorem State.setFb_dt (f : FrameBuffer) : (s.setFb f).dt = s.dt := rfl
@[simp] theorem State.setFb_st (f : FrameBuffer) : (s.setFb f).st = s.st := rfl
@[simp] theorem State.setFb_mem (f : FrameBuffer) : (s.setFb f).mem = s.mem := rfl
@[simp] theorem State.setFb_fb (f : FrameBuffer) : (s.setFb f).fb = f := rfl
@[simp] theorem State.setFb_halted (f : FrameBuffer) : (s.setFb f).halted = s.halted := rfl
@[simp] theorem State.setFb_cause (f : FrameBuffer) : (s.setFb f).cause = s.cause := rfl
@[simp] theorem State.setFb_faultPc (f : FrameBuffer) : (s.setFb f).faultPc = s.faultPc := rfl
@[simp] theorem State.setFb_faultWord (f : FrameBuffer) : (s.setFb f).faultWord = s.faultWord := rfl
@[simp] theorem State.setFb_started (f : FrameBuffer) : (s.setFb f).started = s.started := rfl
@[simp] theorem State.setFb_keys (f : FrameBuffer) : (s.setFb f).keys = s.keys := rfl
@[simp] theorem State.setFb_rand (f : FrameBuffer) : (s.setFb f).rand = s.rand := rfl
@[simp] theorem State.setFb_inputs (f : FrameBuffer) : (s.setFb f).inputs = s.inputs := rfl
@[simp] theorem State.setFb_tickNo (f : FrameBuffer) : (s.setFb f).tickNo = s.tickNo := rfl

/-! ### enterFault -/

@[simp] theorem State.enterFault_v (c : Cause) (a w : Word) : (s.enterFault c a w).v = s.v := rfl
@[simp] theorem State.enterFault_pc (c : Cause) (a w : Word) : (s.enterFault c a w).pc = a := rfl
@[simp] theorem State.enterFault_i (c : Cause) (a w : Word) : (s.enterFault c a w).i = s.i := rfl
@[simp] theorem State.enterFault_stack (c : Cause) (a w : Word) : (s.enterFault c a w).stack = s.stack := rfl
@[simp] theorem State.enterFault_sp (c : Cause) (a w : Word) : (s.enterFault c a w).sp = s.sp := rfl
@[simp] theorem State.enterFault_dt (c : Cause) (a w : Word) : (s.enterFault c a w).dt = s.dt := rfl
@[simp] theorem State.enterFault_st (c : Cause) (a w : Word) : (s.enterFault c a w).st = s.st := rfl
@[simp] theorem State.enterFault_mem (c : Cause) (a w : Word) : (s.enterFault c a w).mem = s.mem := rfl
@[simp] theorem State.enterFault_fb (c : Cause) (a w : Word) : (s.enterFault c a w).fb = s.fb := rfl
@[simp] theorem State.enterFault_halted (c : Cause) (a w : Word) : (s.enterFault c a w).halted = true := rfl
@[simp] theorem State.enterFault_cause (c : Cause) (a w : Word) : (s.enterFault c a w).cause = c := rfl
@[simp] theorem State.enterFault_faultPc (c : Cause) (a w : Word) : (s.enterFault c a w).faultPc = a := rfl
@[simp] theorem State.enterFault_faultWord (c : Cause) (a w : Word) : (s.enterFault c a w).faultWord = w := rfl
@[simp] theorem State.enterFault_started (c : Cause) (a w : Word) : (s.enterFault c a w).started = s.started := rfl
@[simp] theorem State.enterFault_keys (c : Cause) (a w : Word) : (s.enterFault c a w).keys = s.keys := rfl
@[simp] theorem State.enterFault_rand (c : Cause) (a w : Word) : (s.enterFault c a w).rand = s.rand := rfl
@[simp] theorem State.enterFault_inputs (c : Cause) (a w : Word) : (s.enterFault c a w).inputs = s.inputs := rfl
@[simp] theorem State.enterFault_tickNo (c : Cause) (a w : Word) : (s.enterFault c a w).tickNo = s.tickNo := rfl

/-! ### advance -/

@[simp] theorem State.advance_v : s.advance.v = s.v := rfl
@[simp] theorem State.advance_pc : s.advance.pc = s.pc + 2 := rfl
@[simp] theorem State.advance_i : s.advance.i = s.i := rfl
@[simp] theorem State.advance_stack : s.advance.stack = s.stack := rfl
@[simp] theorem State.advance_sp : s.advance.sp = s.sp := rfl
@[simp] theorem State.advance_dt : s.advance.dt = s.dt := rfl
@[simp] theorem State.advance_st : s.advance.st = s.st := rfl
@[simp] theorem State.advance_mem : s.advance.mem = s.mem := rfl
@[simp] theorem State.advance_fb : s.advance.fb = s.fb := rfl
@[simp] theorem State.advance_halted : s.advance.halted = s.halted := rfl
@[simp] theorem State.advance_cause : s.advance.cause = s.cause := rfl
@[simp] theorem State.advance_faultPc : s.advance.faultPc = s.faultPc := rfl
@[simp] theorem State.advance_faultWord : s.advance.faultWord = s.faultWord := rfl
@[simp] theorem State.advance_started : s.advance.started = s.started := rfl
@[simp] theorem State.advance_keys : s.advance.keys = s.keys := rfl
@[simp] theorem State.advance_rand : s.advance.rand = s.rand := rfl
@[simp] theorem State.advance_inputs : s.advance.inputs = s.inputs := rfl
@[simp] theorem State.advance_tickNo : s.advance.tickNo = s.tickNo := rfl

/-! ### timerPhase -/

@[simp] theorem State.timerPhase_v : s.timerPhase.v = s.v := rfl
@[simp] theorem State.timerPhase_pc : s.timerPhase.pc = s.pc := rfl
@[simp] theorem State.timerPhase_i : s.timerPhase.i = s.i := rfl
@[simp] theorem State.timerPhase_stack : s.timerPhase.stack = s.stack := rfl
@[simp] theorem State.timerPhase_sp : s.timerPhase.sp = s.sp := rfl
@[simp] theorem State.timerPhase_dt : s.timerPhase.dt = countDown s.dt := rfl
@[simp] theorem State.timerPhase_st : s.timerPhase.st = countDown s.st := rfl
@[simp] theorem State.timerPhase_mem : s.timerPhase.mem = s.mem := rfl
@[simp] theorem State.timerPhase_fb : s.timerPhase.fb = s.fb := rfl
@[simp] theorem State.timerPhase_halted : s.timerPhase.halted = s.halted := rfl
@[simp] theorem State.timerPhase_cause : s.timerPhase.cause = s.cause := rfl
@[simp] theorem State.timerPhase_faultPc : s.timerPhase.faultPc = s.faultPc := rfl
@[simp] theorem State.timerPhase_faultWord : s.timerPhase.faultWord = s.faultWord := rfl
@[simp] theorem State.timerPhase_started : s.timerPhase.started = s.started := rfl
@[simp] theorem State.timerPhase_keys : s.timerPhase.keys = s.keys := rfl
@[simp] theorem State.timerPhase_rand : s.timerPhase.rand = s.rand := rfl
@[simp] theorem State.timerPhase_inputs : s.timerPhase.inputs = s.inputs := rfl
@[simp] theorem State.timerPhase_tickNo : s.timerPhase.tickNo = s.tickNo := rfl
/-! ### Accessors after updates -/

/-- A register read depends on the register file alone. -/
theorem State.reg_congr {s t : State} (h : t.v = s.v) (r : Reg) : t.reg r = s.reg r := by simp only [State.reg, h]

/-- Reading a register after writing one: the value where it is the same register, else as before. -/
theorem State.reg_setReg (r q : Reg) (b : Byte) : (s.setReg r b).reg q = if q = r then b else s.reg q := by
  simp only [State.reg, State.setReg, Vector.getElem_set, BitVec.toNat_inj]
  split <;> split <;> simp_all

@[simp] theorem State.reg_setReg_same (r : Reg) (b : Byte) : (s.setReg r b).reg r = b := by simp [State.reg_setReg]

theorem State.reg_setReg_other {r q : Reg} (b : Byte) (h : q ≠ r) : (s.setReg r b).reg q = s.reg q := by
  simp [State.reg_setReg, h]

/-- Reading a register after writing the flag. -/
theorem State.reg_setFlag (q : Reg) (f : Bool) : (s.setFlag f).reg q = if q = flagReg then flagByte f else s.reg q :=
  s.reg_setReg flagReg q (flagByte f)

@[simp] theorem State.reg_setPc (w : Word) (r : Reg) : (s.setPc w).reg r = s.reg r := rfl
@[simp] theorem State.reg_setI (w : Word) (r : Reg) : (s.setI w).reg r = s.reg r := rfl
@[simp] theorem State.reg_setSp (n : BitVec 5) (r : Reg) : (s.setSp n).reg r = s.reg r := rfl
@[simp] theorem State.reg_setDt (b : Byte) (r : Reg) : (s.setDt b).reg r = s.reg r := rfl
@[simp] theorem State.reg_setSt (b : Byte) (r : Reg) : (s.setSt b).reg r = s.reg r := rfl
@[simp] theorem State.reg_setSlot (k : Nat) (w : Word) (r : Reg) : (s.setSlot k w).reg r = s.reg r := rfl
@[simp] theorem State.reg_setFb (f : FrameBuffer) (r : Reg) : (s.setFb f).reg r = s.reg r := rfl
@[simp] theorem State.reg_enterFault (c : Cause) (a w : Word) (r : Reg) : (s.enterFault c a w).reg r = s.reg r := rfl
@[simp] theorem State.reg_advance (r : Reg) : s.advance.reg r = s.reg r := rfl
@[simp] theorem State.reg_timerPhase (r : Reg) : s.timerPhase.reg r = s.reg r := rfl

/-! ### The input sample and the start of a tick -/

/-- Sampling and starting a tick change `keys`, `rand`, `inputs`, `tickNo` and `started`, nothing else. -/
theorem State.beginTick_eq : ∃ k r l,
    s.beginTick = { s with keys := k, rand := r, inputs := l, tickNo := s.tickNo + 1, started := true } := by
  unfold State.beginTick State.sample
  split
  · exact ⟨Config.freeKeys s.tickNo, Config.freeRand s.tickNo, [], by simp_all⟩
  · exact ⟨_, _, _, rfl⟩

@[simp] theorem State.beginTick_started : s.beginTick.started = true := rfl

@[simp] theorem State.beginTick_v : s.beginTick.v = s.v := by obtain ⟨k, r, l, h⟩ := s.beginTick_eq; rw [h]
@[simp] theorem State.beginTick_pc : s.beginTick.pc = s.pc := by obtain ⟨k, r, l, h⟩ := s.beginTick_eq; rw [h]
@[simp] theorem State.beginTick_i : s.beginTick.i = s.i := by obtain ⟨k, r, l, h⟩ := s.beginTick_eq; rw [h]
@[simp] theorem State.beginTick_stack : s.beginTick.stack = s.stack := by obtain ⟨k, r, l, h⟩ := s.beginTick_eq; rw [h]
@[simp] theorem State.beginTick_sp : s.beginTick.sp = s.sp := by obtain ⟨k, r, l, h⟩ := s.beginTick_eq; rw [h]
@[simp] theorem State.beginTick_dt : s.beginTick.dt = s.dt := by obtain ⟨k, r, l, h⟩ := s.beginTick_eq; rw [h]
@[simp] theorem State.beginTick_st : s.beginTick.st = s.st := by obtain ⟨k, r, l, h⟩ := s.beginTick_eq; rw [h]
@[simp] theorem State.beginTick_mem : s.beginTick.mem = s.mem := by obtain ⟨k, r, l, h⟩ := s.beginTick_eq; rw [h]
@[simp] theorem State.beginTick_fb : s.beginTick.fb = s.fb := by obtain ⟨k, r, l, h⟩ := s.beginTick_eq; rw [h]
@[simp] theorem State.beginTick_halted : s.beginTick.halted = s.halted := by obtain ⟨k, r, l, h⟩ := s.beginTick_eq; rw [h]
@[simp] theorem State.beginTick_cause : s.beginTick.cause = s.cause := by obtain ⟨k, r, l, h⟩ := s.beginTick_eq; rw [h]
@[simp] theorem State.beginTick_faultPc : s.beginTick.faultPc = s.faultPc := by obtain ⟨k, r, l, h⟩ := s.beginTick_eq; rw [h]
@[simp] theorem State.beginTick_faultWord : s.beginTick.faultWord = s.faultWord := by
  obtain ⟨k, r, l, h⟩ := s.beginTick_eq; rw [h]

@[simp] theorem State.reg_beginTick (r : Reg) : s.beginTick.reg r = s.reg r := 
  State.reg_congr s.beginTick_v r

/-- A tick to which the environment presents a pair samples that pair and leaves the other inputs (R118). -/
theorem State.present_beginTick (p : TickInput) : (s.present p).beginTick =
    { s with keys := p.keys, rand := p.rand, tickNo := s.tickNo + 1, started := true } := rfl

/-! ### Skips -/

/-- A skip writes `PC` and nothing else. -/
theorem State.skipIf_eq (b : Bool) : s.skipIf b = s.setPc (if b then s.pc + 2 else s.pc) := by cases b <;> rfl

end Sys2Proof.Machine
end

