-- ==== Sys2Proof/Laws/Memory.lean ====
section
/-! SUPPORT. The laws of memory: read after write, blocks of bytes, and every operation keeps the canonical form. -/

namespace Sys2Proof.Machine

/-! ### One byte -/

theorem Memory.read_erase_same (m : Memory) (a : Nat) : (Memory.erase m a).read a = resetByte a := by
  induction m with
  | nil => rfl
  | cons c m ih =>
    unfold Memory.erase at ih ⊢
    by_cases h : c.1 = a
    · simpa [h] using ih
    · simpa [h, Memory.read] using ih

theorem Memory.read_erase_other (m : Memory) {a q : Nat} (h : q ≠ a) : (Memory.erase m a).read q = m.read q := by
  induction m with
  | nil => rfl
  | cons c m ih =>
    unfold Memory.erase at ih ⊢
    by_cases hc : c.1 = a
    · have : a ≠ q := fun e => h e.symm
      simp only [List.filter_cons, hc, bne_self_eq_false, Bool.false_eq_true, if_false, ih, Memory.read, this]
    · simp [hc, Memory.read, ih]

theorem Memory.read_insert_other (m : Memory) (a q : Nat) (b : Byte) (h : q ≠ a) :
    (Memory.insert m a b).read q = m.read q := by
  have h' : a ≠ q := fun e => h e.symm
  induction m with
  | nil => simp [Memory.insert, Memory.read, h']
  | cons c m ih =>
    simp only [Memory.insert]
    split
    · simp [Memory.read, h']
    · simp [Memory.read, ih]

theorem Memory.read_insert_same (m : Memory) (a : Nat) (b : Byte) (h : ∀ c ∈ m, c.1 ≠ a) :
    (Memory.insert m a b).read a = b := by
  induction m with
  | nil => simp [Memory.insert, Memory.read]
  | cons c m ih =>
    have hc : c.1 ≠ a := h c (by simp)
    simp only [Memory.insert]
    split
    · simp [Memory.read]
    · simp [Memory.read, hc, ih fun e he => h e (by simp [he])]

/-- Reading where a byte was written gives that byte, in any list of cells. -/
theorem Memory.read_write_same (m : Memory) (a : Nat) (b : Byte) : (m.write a b).read a = b := by
  unfold Memory.write
  split
  · next h => rw [Memory.read_erase_same, h]
  · exact Memory.read_insert_same _ a b fun c hc => by simpa [Memory.erase] using (List.mem_filter.mp hc).2

/-- A write leaves every other address alone. -/
theorem Memory.read_write_other (m : Memory) {a q : Nat} (b : Byte) (h : q ≠ a) : (m.write a b).read q = m.read q := by
  unfold Memory.write
  split
  · exact Memory.read_erase_other m h
  · rw [Memory.read_insert_other _ a q b h, Memory.read_erase_other m h]

/-! ### Blocks of bytes -/

@[simp] theorem Memory.length_readList (m : Memory) (n : Nat) : ∀ a, (Memory.readList m a n).length = n := by
  induction n with
  | zero => intro a; rfl
  | succ n ih => intro a; simp [Memory.readList, ih]

/-- The `k`-th byte of a block read. -/
theorem Memory.getElem?_readList (m : Memory) (n : Nat) : ∀ a k, k < n → (Memory.readList m a n)[k]? = some (m.read (a + k)) := by
  induction n with
  | zero => intro a k h; omega
  | succ n ih =>
    intro a k h
    cases k with
    | zero => simp [Memory.readList]
    | succ k =>
      have := ih (a + 1) k (by omega)
      simpa [Memory.readList, Nat.add_assoc, Nat.add_comm 1 k] using this

/-- A block write leaves every address outside the block alone. -/
theorem Memory.read_writeList_outside (bs : List Byte) : ∀ (m : Memory) (a q : Nat),
    (q < a ∨ a + bs.length ≤ q) → (Memory.writeList m a bs).read q = m.read q := by
  induction bs with
  | nil => intro m a q _; rfl
  | cons b bs ih =>
    intro m a q h
    simp only [List.length_cons] at h
    rw [Memory.writeList, ih _ _ _ (by omega), Memory.read_write_other _ _ (by omega)]

/-- The `k`-th byte of a block written is what its address reads as. -/
theorem Memory.read_writeList_inside (bs : List Byte) : ∀ (m : Memory) (a k : Nat) (h : k < bs.length),
    (Memory.writeList m a bs).read (a + k) = bs[k] := by
  induction bs with
  | nil => intro m a k h; simp at h
  | cons b bs ih =>
    intro m a k h
    cases k with
    | zero =>
      rw [Memory.writeList, Memory.read_writeList_outside _ _ _ _ (by omega)]
      exact Memory.read_write_same m a b
    | succ k =>
      have hk : k < bs.length := by simpa using h
      have := ih (m.write a b) (a + 1) k hk
      rw [Memory.writeList, show a + (k + 1) = a + 1 + k by omega, this]
      rfl

/-! ### The canonical form -/

theorem Memory.wfFrom_mono : ∀ (m : Memory) {lo lo' : Nat}, lo' ≤ lo → Memory.wfFrom lo m = true → Memory.wfFrom lo' m = true
  | [], _, _, _, _ => rfl
  | (c, d) :: m, lo, lo', h, hw => by
    simp only [Memory.wfFrom, Bool.and_eq_true, decide_eq_true_eq] at hw ⊢
    exact ⟨⟨⟨by omega, hw.1.1.2⟩, hw.1.2⟩, hw.2⟩

theorem Memory.wfFrom_erase (a : Nat) : ∀ (m : Memory) (lo : Nat), Memory.wfFrom lo m = true → Memory.wfFrom lo (Memory.erase m a) = true
  | [], _, _ => rfl
  | (c, d) :: m, lo, hw => by
    simp only [Memory.wfFrom, Bool.and_eq_true, decide_eq_true_eq] at hw
    have ih := Memory.wfFrom_erase a m (c + 1) hw.2
    unfold Memory.erase at ih ⊢
    by_cases h : c = a
    · simp only [List.filter_cons, h, bne_self_eq_false, Bool.false_eq_true, if_false]
      exact Memory.wfFrom_mono _ (by omega) (h ▸ ih)
    · simp only [List.filter_cons, bne_iff_ne, ne_eq, h, not_false_eq_true, if_true, Memory.wfFrom, Bool.and_eq_true,
        decide_eq_true_eq]
      exact ⟨hw.1, ih⟩

theorem Memory.wfFrom_insert {a : Nat} {b : Byte} (ha : a < Config.memSize) (hb : b ≠ resetByte a) :
    ∀ (m : Memory) (lo : Nat), lo ≤ a → (∀ c ∈ m, c.1 ≠ a) → Memory.wfFrom lo m = true →
      Memory.wfFrom lo (Memory.insert m a b) = true
  | [], lo, hlo, _, _ => by simp [Memory.insert, Memory.wfFrom, hlo, ha, hb]
  | (c, d) :: m, lo, hlo, hm, hw => by
    have hc : c ≠ a := hm (c, d) (by simp)
    simp only [Memory.wfFrom, Bool.and_eq_true, decide_eq_true_eq] at hw
    simp only [Memory.insert]
    split
    · next h =>
      simp only [Memory.wfFrom, Bool.and_eq_true, decide_eq_true_eq]
      exact ⟨⟨⟨hlo, ha⟩, hb⟩, ⟨⟨by omega, hw.1.1.2⟩, hw.1.2⟩, hw.2⟩
    · next h =>
      simp only [Memory.wfFrom, Bool.and_eq_true, decide_eq_true_eq]
      exact ⟨hw.1, Memory.wfFrom_insert ha hb m (c + 1) (by omega) (fun e he => hm e (by simp [he])) hw.2⟩

/-- A write to an address that exists keeps the canonical form. -/
theorem Memory.wf_write {m : Memory} {a : Nat} (b : Byte) (ha : a < Config.memSize) (hw : m.wf = true) :
    (m.write a b).wf = true := by
  unfold Memory.wf Memory.write at *
  split
  · exact Memory.wfFrom_erase a m 0 hw
  · next h =>
    exact Memory.wfFrom_insert ha h _ 0 (by omega)
      (fun c hc => by simpa [Memory.erase] using (List.mem_filter.mp hc).2) (Memory.wfFrom_erase a m 0 hw)

/-- A block write inside the address space keeps the canonical form. -/
theorem Memory.wf_writeList (bs : List Byte) : ∀ {m : Memory} {a : Nat}, (bs = [] ∨ a + bs.length ≤ Config.memSize) →
    m.wf = true → (Memory.writeList m a bs).wf = true := by
  induction bs with
  | nil => intro m a _ h; exact h
  | cons b bs ih =>
    intro m a hl h
    simp only [List.length_cons, reduceCtorEq, false_or] at hl
    exact ih (.inr (by omega)) (Memory.wf_write b (by omega) h)

/-- The memory of the reset state has the canonical form. -/
theorem Memory.wf_reset : State.reset.mem.wf = true := rfl

/-! ### The block operations on states -/

/-- Everything a block read can do: it answers the bytes from `I` on exactly where all of them exist. -/
theorem State.loadBlock_eq (s : State) (n : Nat) :
    s.loadBlock n = if n = 0 ∨ s.i.toNat + n ≤ 4096 then some (s.mem.readList s.i.toNat n) else none := by
  simp [State.loadBlock, rangeOk, State.effAddr, Config.memSize]

/-- Everything a block write can do: it stores from `I` on exactly where all the bytes exist, and changes memory alone. -/
theorem State.storeBlock_eq (s : State) (bs : List Byte) :
    s.storeBlock bs = if bs.length = 0 ∨ s.i.toNat + bs.length ≤ 4096
      then some { s with mem := s.mem.writeList s.i.toNat bs } else none := by
  simp [State.storeBlock, rangeOk, State.effAddr, Config.memSize]

end Sys2Proof.Machine
end

