-- ==== Sys2Proof/Laws/Ops.lean ====
section
/-! SUPPORT. One lemma per shared operation: faults, register blocks, the pixel primitive, the key list. -/

namespace Sys2Proof.Machine

variable (s : State)

/-! ### Faults -/

/-- Raising a fault answers a next state: the fault entry at `A` with the word of the instruction. -/
theorem State.raise_eq (c : Cause) (i : Instr) : s.raise c i = .next (s.enterFault c (s.pc - 2) (encode i)) := rfl

/-- After the default advance, `A` is the address fetched from. -/
theorem State.instrAddr_advance : s.advance.instrAddr = s.pc := by
  simp [State.instrAddr]

/-! ### Register blocks -/

@[simp] theorem State.length_regsUpTo (x : Reg) : (s.regsUpTo x).length = x.toNat + 1 := by
  simp [State.regsUpTo, regCount]

theorem State.getElem_regsUpTo (x : Reg) (k : Nat) (h : k < (s.regsUpTo x).length) :
    (s.regsUpTo x)[k] = s.reg (BitVec.ofNat 4 k) := by
  simp [State.regsUpTo]

/-- Loading a register block writes registers alone. -/
theorem State.setRegsFrom_eq : ∀ (bs : List Byte) (s : State) (k : Nat), ∃ v, s.setRegsFrom k bs = { s with v := v }
  | [], s, _ => ⟨s.v, rfl⟩
  | b :: bs, s, k => by
    obtain ⟨v, h⟩ := State.setRegsFrom_eq bs (s.setReg (BitVec.ofNat 4 k) b) (k + 1)
    exact ⟨v, by rw [State.setRegsFrom, h]; rfl⟩

/-- A register after a register block was loaded. -/
theorem State.reg_setRegsFrom : ∀ (bs : List Byte) (s : State) (k : Nat) (r : Reg), k + bs.length ≤ 16 →
    (s.setRegsFrom k bs).reg r = if k ≤ r.toNat then bs.getD (r.toNat - k) (s.reg r) else s.reg r
  | [], s, k, r, _ => by simp [State.setRegsFrom]
  | b :: bs, s, k, r, h => by
    simp only [List.length_cons] at h
    rw [State.setRegsFrom, State.reg_setRegsFrom bs _ (k + 1) r (by omega)]
    have hr : r = BitVec.ofNat 4 k ↔ r.toNat = k := by
      rw [← BitVec.toNat_inj, BitVec.toNat_ofNat, Nat.mod_eq_of_lt (by omega)]
    simp only [State.reg_setReg, hr]
    rcases Nat.lt_trichotomy r.toNat k with h1 | h1 | h1
    · simp [show ¬ k + 1 ≤ r.toNat by omega, show ¬ r.toNat = k by omega, show ¬ k ≤ r.toNat by omega]
    · simp [h1]
    · simp [show k + 1 ≤ r.toNat by omega, show ¬ r.toNat = k by omega, show k ≤ r.toNat by omega,
        show r.toNat - k = (r.toNat - (k + 1)) + 1 by omega]

/-! ### The pixel primitive -/

/-- A pixel after one pixel was written. -/
theorem FrameBuffer.pixel_setPixel (fb : FrameBuffer) (y q : Fin 32) (x p : Fin 64) (b : Bool) :
    (FrameBuffer.setPixel fb y x b).pixel q p = if q = y ∧ p = x then b else fb.pixel q p := by
  have hs : (x.val = p.val) ↔ p = x := ⟨fun h => Fin.ext h.symm, fun h => by rw [h]⟩
  by_cases hq : q = y
  · subst hq
    by_cases hp : p = x
    · subst hp
      cases b <;> simp [FrameBuffer.pixel, FrameBuffer.setPixel]
    · have hne : p.val ≠ x.val := fun e => hp (Fin.ext e)
      cases b <;>
        simp [FrameBuffer.pixel, FrameBuffer.setPixel, hp] <;> omega
  · have hne : y.val ≠ q.val := fun e => hq (Fin.ext e.symm)
    simp [FrameBuffer.pixel, FrameBuffer.setPixel, hq, hne]

/-- The pixel primitive flips one pixel (R221). -/
theorem pixel_toggle (fc : FrameBuffer × Bool) (y q : Fin 32) (x p : Fin 64) :
    (toggle fc y x).1.pixel q p = ((decide (q = y ∧ p = x)) ^^ fc.1.pixel q p) := by
  unfold toggle
  by_cases h : q = y ∧ p = x
  · obtain ⟨rfl, rfl⟩ := h
    split <;> simp_all [FrameBuffer.pixel_setPixel]
  · rw [decide_eq_false h, Bool.false_xor]
    split <;> rw [FrameBuffer.pixel_setPixel, if_neg h]

/-- The pixel primitive records a collision where the pixel was on (R221). -/
theorem collided_toggle (fc : FrameBuffer × Bool) (y : Fin 32) (x : Fin 64) :
    (toggle fc y x).2 = (fc.2 || fc.1.pixel y x) := by
  unfold toggle
  split <;> simp_all

/-- Two framebuffers with the same pixels are the same. -/
theorem FrameBuffer.ext_pixel {a b : FrameBuffer} (h : ∀ y x, a.pixel y x = b.pixel y x) : a = b := by
  apply Vector.ext
  intro y hy
  apply BitVec.eq_of_getLsbD_eq
  intro x hx
  exact h ⟨y, hy⟩ ⟨x, hx⟩

/-! ### The key list -/

/-- A key is in the list of held keys exactly when it is held. -/
theorem State.mem_heldKeys (k : BitVec 4) : k ∈ s.heldKeys ↔ s.keyHeld k.toNat = true := by
  have hk : k ∈ Config.keyScanOrder := by revert k; decide
  simp [State.heldKeys, hk]

end Sys2Proof.Machine
end

