-- ==== Sys2Proof/Laws/Display.lean ====
section
/-! SUPPORT. The framebuffer engine: drawing a sprite is toggling a list of distinct pixels. -/

namespace Sys2Proof.Machine

/-- The pixel primitive on a pair (row, column). -/
def togglePixel (fc : FrameBuffer × Bool) (q : Fin 32 × Fin 64) : FrameBuffer × Bool := toggle fc q.1 q.2

/-- Toggling distinct pixels flips exactly those, and collides exactly where one of them was on (R225). -/
theorem fold_togglePixel : ∀ (L : List (Fin 32 × Fin 64)) (fc : FrameBuffer × Bool), L.Nodup →
    (∀ q p, (L.foldl togglePixel fc).1.pixel q p = (decide ((q, p) ∈ L) ^^ fc.1.pixel q p)) ∧
    ((L.foldl togglePixel fc).2 = true ↔ (fc.2 = true ∨ ∃ a ∈ L, fc.1.pixel a.1 a.2 = true))
  | [], fc, _ => by simp
  | a :: L, fc, h => by
    obtain ⟨h1, h2⟩ := List.nodup_cons.1 h
    obtain ⟨ih1, ih2⟩ := fold_togglePixel L (togglePixel fc a) h2
    constructor
    · intro q p
      rw [List.foldl_cons, ih1, togglePixel, pixel_toggle]
      by_cases e : q = a.1 ∧ p = a.2
      · simp [h1, e]
      · have : (q, p) ≠ a := fun e' => e ⟨congrArg Prod.fst e', congrArg Prod.snd e'⟩
        rw [decide_eq_false e]
        simp [this]
    · rw [List.foldl_cons, ih2, togglePixel, collided_toggle]
      constructor
      · rintro (h | ⟨b, hb, hp⟩)
        · rcases Bool.or_eq_true_iff.1 h with h | h
          · exact .inl h
          · exact .inr ⟨a, by simp, h⟩
        · rw [pixel_toggle, decide_eq_false] at hp
          · exact .inr ⟨b, by simp [hb], by simpa using hp⟩
          · rintro ⟨e1, e2⟩; exact h1 (by rw [show a = b from (Prod.ext e1 e2).symm]; exact hb)
      · rintro (h | ⟨b, hb, hp⟩)
        · left; simp [h]
        · rcases List.mem_cons.1 hb with rfl | hb
          · left; simp [hp]
          · right; refine ⟨b, hb, ?_⟩
            rw [pixel_toggle, decide_eq_false]
            · simpa using hp
            · rintro ⟨e1, e2⟩; exact h1 (by rw [show a = b from (Prod.ext e1 e2).symm]; exact hb)

/-- The pixels under the 1 bits of a sprite byte (R221, R224). -/
def rowPixels (vx vy : Byte) (row : Nat) (b : Byte) : List (Fin 32 × Fin 64) :=
  ((List.range 8).filter fun col => b.getLsbD (7 - col)).map fun col => (screenRow vy row, screenCol vx col)

/-- Drawing a byte toggles the pixels under its 1 bits. -/
theorem drawRow_eq_fold (vx vy row b fc) : drawRow vx vy row b fc = (rowPixels vx vy row b).foldl togglePixel fc := by
  unfold drawRow rowPixels
  rw [List.foldl_map, List.foldl_filter]
  rfl

/-- The pixels under the 1 bits of the sprite bytes from sprite row `row` on. -/
def spritePixels (vx vy : Byte) : Nat → List Byte → List (Fin 32 × Fin 64)
  | _, [] => []
  | row, b :: bs => rowPixels vx vy row b ++ spritePixels vx vy (row+1) bs

/-- Drawing rows toggles the pixels under their 1 bits. -/
theorem drawRows_eq_fold (vx vy) : ∀ (bs : List Byte) (row : Nat) (fc), drawRows vx vy row bs fc = (spritePixels vx vy row bs).foldl togglePixel fc
  | [], row, fc => rfl
  | b :: bs, row, fc => by
    rw [drawRows, spritePixels, List.foldl_append, drawRow_eq_fold, drawRows_eq_fold vx vy bs]

/-- Which pixels a sprite byte covers. -/
theorem mem_rowPixels (vx vy row b a) : a ∈ rowPixels vx vy row b ↔ ∃ col, col < 8 ∧ b.getLsbD (7 - col) = true ∧ a = (screenRow vy row, screenCol vx col) := by
  simp only [rowPixels, List.mem_map, List.mem_filter, List.mem_range]
  constructor
  · rintro ⟨c, ⟨h1, h2⟩, rfl⟩; exact ⟨c, h1, h2, rfl⟩
  · rintro ⟨c, h1, h2, rfl⟩; exact ⟨c, ⟨h1, h2⟩, rfl⟩

/-- Which pixels a sprite covers. -/
theorem mem_spritePixels (vx vy) : ∀ (bs : List Byte) (row : Nat) a, a ∈ spritePixels vx vy row bs ↔
    ∃ k col, k < bs.length ∧ col < 8 ∧ (bs.getD k 0).getLsbD (7 - col) = true ∧ a = (screenRow vy (row + k), screenCol vx col)
  | [], row, a => by simp [spritePixels]
  | b :: bs, row, a => by
    rw [spritePixels, List.mem_append, mem_rowPixels, mem_spritePixels vx vy bs]
    constructor
    · rintro (⟨c, h1, h2, h3⟩ | ⟨k, c, h0, h1, h2, h3⟩)
      · exact ⟨0, c, by simp, h1, by simpa using h2, h3⟩
      · exact ⟨k+1, c, by simpa using h0, h1, by simpa using h2, by rw [h3]; congr 2; omega⟩
    · rintro ⟨k, c, h0, h1, h2, h3⟩
      cases k with
      | zero => exact .inl ⟨c, h1, by simpa using h2, h3⟩
      | succ k => exact .inr ⟨k, c, by simpa using h0, h1, by simpa using h2, by rw [h3]; congr 2; omega⟩

/-- The eight columns are distinct `mod 64` (R225). -/
theorem screenCol_inj (vx) {c d : Nat} (hc : c < 8) (hd : d < 8) (h : screenCol vx c = screenCol vx d) : c = d := by
  have := congrArg Fin.val h
  simp [screenCol, Fin.ofNat] at this; omega

/-- Up to sixteen rows are distinct `mod 32` (R225). -/
theorem screenRow_inj (vx) {c d : Nat} (hc : c < 16) (hd : d < 16) (h : screenRow vx c = screenRow vx d) : c = d := by
  have := congrArg Fin.val h
  simp [screenRow, Fin.ofNat] at this; omega

/-- A sprite byte covers no pixel twice. -/
theorem nodup_rowPixels (vx vy row b) : (rowPixels vx vy row b).Nodup := by
  unfold rowPixels
  rw [List.nodup_map_iff_inj_on ((List.nodup_range).filter _)]
  intro c hc d hd h
  simp at hc hd
  exact screenCol_inj vx hc.1 hd.1 (congrArg Prod.snd h)

/-- A sprite of up to sixteen rows covers no pixel twice (R225). -/
theorem nodup_spritePixels (vx vy) : ∀ (bs : List Byte) (row : Nat), row + bs.length ≤ 16 → (spritePixels vx vy row bs).Nodup
  | [], _, _ => by simp [spritePixels]
  | b :: bs, row, h => by
    simp at h
    rw [spritePixels, List.nodup_append]
    refine ⟨nodup_rowPixels .., nodup_spritePixels vx vy bs _ (by omega), ?_⟩
    intro a ha b' hb e
    subst e
    obtain ⟨c, _, _, rfl⟩ := (mem_rowPixels ..).1 ha
    obtain ⟨k, d, hk, _, _, e⟩ := (mem_spritePixels ..).1 hb
    have := screenRow_inj vy (by omega) (by omega) (congrArg Prod.fst e)
    omega

end Sys2Proof.Machine
end

