-- ==== Sys2Proof/Laws/PerInstr.lean ====
section
/-! SUPPORT. The families of statements about every instruction as syntax, one lemma per constructor of `Instr`. -/

namespace Sys2Proof.Laws

/-! ### The fixed bits of each format (R81) -/

theorem mask_formAddr (op : BitVec 4) (nnn : Addr) : formAddr op nnn &&& 0xF000#16 = formAddr op 0 := by
  apply BitVec.eq_of_getLsbD_eq
  intro k hk
  rw [BitVec.getLsbD_and, getLsbD_formAddr, getLsbD_formAddr]
  interval_cases k <;> simp

theorem mask_formRegImm (op : BitVec 4) (x : Reg) (nn : Byte) : formRegImm op x nn &&& 0xF000#16 = formRegImm op 0 0 := by
  apply BitVec.eq_of_getLsbD_eq
  intro k hk
  rw [BitVec.getLsbD_and, getLsbD_formRegImm, getLsbD_formRegImm]
  interval_cases k <;> simp

theorem mask_formRegFn (op : BitVec 4) (x : Reg) (f : Byte) : formRegImm op x f &&& 0xF0FF#16 = formRegImm op 0 f := by
  apply BitVec.eq_of_getLsbD_eq
  intro k hk
  rw [BitVec.getLsbD_and, getLsbD_formRegImm, getLsbD_formRegImm]
  interval_cases k <;> simp

theorem mask_formRegReg (op : BitVec 4) (x y : Reg) (n : Nibble) :
    formRegReg op x y n &&& 0xF00F#16 = formRegReg op 0 0 n := by
  apply BitVec.eq_of_getLsbD_eq
  intro k hk
  rw [BitVec.getLsbD_and, getLsbD_formRegReg, getLsbD_formRegReg]
  interval_cases k <;> simp

theorem mask_formRegRegN (op : BitVec 4) (x y : Reg) (n : Nibble) :
    formRegReg op x y n &&& 0xF000#16 = formRegReg op 0 0 0 := by
  apply BitVec.eq_of_getLsbD_eq
  intro k hk
  rw [BitVec.getLsbD_and, getLsbD_formRegReg, getLsbD_formRegReg]
  interval_cases k <;> simp

/-! ### Every instruction's word has the fixed bits of its row of R84 -/

/-- The word of the instruction matches the row of the opcode map that carries the instruction's number. -/
def EncodeFitsRow.Statement (i : Instr) : Prop :=
  ∃ r ∈ opcodeTable, r.number = i.rowNumber ∧ r.matches (encode i) = true

/-- A row fits once its masked word is the pattern. -/
theorem row_fits {i : Instr} (r : OpcodeRow) (hr : r ∈ opcodeTable) (hn : r.number = i.rowNumber)
    (hm : encode i &&& r.mask = r.pattern) : EncodeFitsRow.Statement i :=
  ⟨r, hr, hn, by simp [OpcodeRow.matches, hm]⟩

theorem EncodeFitsRow.cls : EncodeFitsRow.Statement .cls :=
  row_fits ⟨1, 0xFFFF, 0x00E0⟩ (by decide) rfl rfl

theorem EncodeFitsRow.ret : EncodeFitsRow.Statement .ret :=
  row_fits ⟨2, 0xFFFF, 0x00EE⟩ (by decide) rfl rfl

theorem EncodeFitsRow.jpNnn (nnn : Addr) : EncodeFitsRow.Statement (.jpNnn nnn) :=
  row_fits ⟨3, 0xF000, 0x1000⟩ (by decide) rfl (mask_formAddr 0x1 nnn)

theorem EncodeFitsRow.callNnn (nnn : Addr) : EncodeFitsRow.Statement (.callNnn nnn) :=
  row_fits ⟨4, 0xF000, 0x2000⟩ (by decide) rfl (mask_formAddr 0x2 nnn)

theorem EncodeFitsRow.seVxNn (x : Reg) (nn : Byte) : EncodeFitsRow.Statement (.seVxNn x nn) :=
  row_fits ⟨5, 0xF000, 0x3000⟩ (by decide) rfl (mask_formRegImm 0x3 x nn)

theorem EncodeFitsRow.sneVxNn (x : Reg) (nn : Byte) : EncodeFitsRow.Statement (.sneVxNn x nn) :=
  row_fits ⟨6, 0xF000, 0x4000⟩ (by decide) rfl (mask_formRegImm 0x4 x nn)

theorem EncodeFitsRow.seVxVy (x : Reg) (y : Reg) : EncodeFitsRow.Statement (.seVxVy x y) :=
  row_fits ⟨7, 0xF00F, 0x5000⟩ (by decide) rfl (mask_formRegReg 0x5 x y 0x0)

theorem EncodeFitsRow.sneVxVy (x : Reg) (y : Reg) : EncodeFitsRow.Statement (.sneVxVy x y) :=
  row_fits ⟨8, 0xF00F, 0x9000⟩ (by decide) rfl (mask_formRegReg 0x9 x y 0x0)

theorem EncodeFitsRow.ldVxNn (x : Reg) (nn : Byte) : EncodeFitsRow.Statement (.ldVxNn x nn) :=
  row_fits ⟨9, 0xF000, 0x6000⟩ (by decide) rfl (mask_formRegImm 0x6 x nn)

theorem EncodeFitsRow.addVxNn (x : Reg) (nn : Byte) : EncodeFitsRow.Statement (.addVxNn x nn) :=
  row_fits ⟨10, 0xF000, 0x7000⟩ (by decide) rfl (mask_formRegImm 0x7 x nn)

theorem EncodeFitsRow.ldVxVy (x : Reg) (y : Reg) : EncodeFitsRow.Statement (.ldVxVy x y) :=
  row_fits ⟨11, 0xF00F, 0x8000⟩ (by decide) rfl (mask_formRegReg 0x8 x y 0x0)

theorem EncodeFitsRow.orVxVy (x : Reg) (y : Reg) : EncodeFitsRow.Statement (.orVxVy x y) :=
  row_fits ⟨12, 0xF00F, 0x8001⟩ (by decide) rfl (mask_formRegReg 0x8 x y 0x1)

theorem EncodeFitsRow.andVxVy (x : Reg) (y : Reg) : EncodeFitsRow.Statement (.andVxVy x y) :=
  row_fits ⟨13, 0xF00F, 0x8002⟩ (by decide) rfl (mask_formRegReg 0x8 x y 0x2)

theorem EncodeFitsRow.xorVxVy (x : Reg) (y : Reg) : EncodeFitsRow.Statement (.xorVxVy x y) :=
  row_fits ⟨14, 0xF00F, 0x8003⟩ (by decide) rfl (mask_formRegReg 0x8 x y 0x3)

theorem EncodeFitsRow.addVxVy (x : Reg) (y : Reg) : EncodeFitsRow.Statement (.addVxVy x y) :=
  row_fits ⟨15, 0xF00F, 0x8004⟩ (by decide) rfl (mask_formRegReg 0x8 x y 0x4)

theorem EncodeFitsRow.subVxVy (x : Reg) (y : Reg) : EncodeFitsRow.Statement (.subVxVy x y) :=
  row_fits ⟨16, 0xF00F, 0x8005⟩ (by decide) rfl (mask_formRegReg 0x8 x y 0x5)

theorem EncodeFitsRow.shrVxVy (x : Reg) (y : Reg) : EncodeFitsRow.Statement (.shrVxVy x y) :=
  row_fits ⟨17, 0xF00F, 0x8006⟩ (by decide) rfl (mask_formRegReg 0x8 x y 0x6)

theorem EncodeFitsRow.subnVxVy (x : Reg) (y : Reg) : EncodeFitsRow.Statement (.subnVxVy x y) :=
  row_fits ⟨18, 0xF00F, 0x8007⟩ (by decide) rfl (mask_formRegReg 0x8 x y 0x7)

theorem EncodeFitsRow.shlVxVy (x : Reg) (y : Reg) : EncodeFitsRow.Statement (.shlVxVy x y) :=
  row_fits ⟨19, 0xF00F, 0x800E⟩ (by decide) rfl (mask_formRegReg 0x8 x y 0xE)

theorem EncodeFitsRow.ldINnn (nnn : Addr) : EncodeFitsRow.Statement (.ldINnn nnn) :=
  row_fits ⟨20, 0xF000, 0xA000⟩ (by decide) rfl (mask_formAddr 0xA nnn)

theorem EncodeFitsRow.jpV0Nnn (nnn : Addr) : EncodeFitsRow.Statement (.jpV0Nnn nnn) :=
  row_fits ⟨21, 0xF000, 0xB000⟩ (by decide) rfl (mask_formAddr 0xB nnn)

theorem EncodeFitsRow.rndVxNn (x : Reg) (nn : Byte) : EncodeFitsRow.Statement (.rndVxNn x nn) :=
  row_fits ⟨22, 0xF000, 0xC000⟩ (by decide) rfl (mask_formRegImm 0xC x nn)

theorem EncodeFitsRow.drwVxVyN (x : Reg) (y : Reg) (n : Nibble) : EncodeFitsRow.Statement (.drwVxVyN x y n) :=
  row_fits ⟨23, 0xF000, 0xD000⟩ (by decide) rfl (mask_formRegRegN 0xD x y n)

theorem EncodeFitsRow.skpVx (x : Reg) : EncodeFitsRow.Statement (.skpVx x) :=
  row_fits ⟨24, 0xF0FF, 0xE09E⟩ (by decide) rfl (mask_formRegFn 0xE x 0x9E)

theorem EncodeFitsRow.sknpVx (x : Reg) : EncodeFitsRow.Statement (.sknpVx x) :=
  row_fits ⟨25, 0xF0FF, 0xE0A1⟩ (by decide) rfl (mask_formRegFn 0xE x 0xA1)

theorem EncodeFitsRow.ldVxDt (x : Reg) : EncodeFitsRow.Statement (.ldVxDt x) :=
  row_fits ⟨26, 0xF0FF, 0xF007⟩ (by decide) rfl (mask_formRegFn 0xF x 0x07)

theorem EncodeFitsRow.ldDtVx (x : Reg) : EncodeFitsRow.Statement (.ldDtVx x) :=
  row_fits ⟨27, 0xF0FF, 0xF015⟩ (by decide) rfl (mask_formRegFn 0xF x 0x15)

theorem EncodeFitsRow.ldStVx (x : Reg) : EncodeFitsRow.Statement (.ldStVx x) :=
  row_fits ⟨28, 0xF0FF, 0xF018⟩ (by decide) rfl (mask_formRegFn 0xF x 0x18)

theorem EncodeFitsRow.addIVx (x : Reg) : EncodeFitsRow.Statement (.addIVx x) :=
  row_fits ⟨29, 0xF0FF, 0xF01E⟩ (by decide) rfl (mask_formRegFn 0xF x 0x1E)

theorem EncodeFitsRow.ldVxK (x : Reg) : EncodeFitsRow.Statement (.ldVxK x) :=
  row_fits ⟨30, 0xF0FF, 0xF00A⟩ (by decide) rfl (mask_formRegFn 0xF x 0x0A)

theorem EncodeFitsRow.ldFVx (x : Reg) : EncodeFitsRow.Statement (.ldFVx x) :=
  row_fits ⟨31, 0xF0FF, 0xF029⟩ (by decide) rfl (mask_formRegFn 0xF x 0x29)

theorem EncodeFitsRow.ldBVx (x : Reg) : EncodeFitsRow.Statement (.ldBVx x) :=
  row_fits ⟨32, 0xF0FF, 0xF033⟩ (by decide) rfl (mask_formRegFn 0xF x 0x33)

theorem EncodeFitsRow.ldIIndVx (x : Reg) : EncodeFitsRow.Statement (.ldIIndVx x) :=
  row_fits ⟨33, 0xF0FF, 0xF055⟩ (by decide) rfl (mask_formRegFn 0xF x 0x55)

theorem EncodeFitsRow.ldVxIInd (x : Reg) : EncodeFitsRow.Statement (.ldVxIInd x) :=
  row_fits ⟨34, 0xF0FF, 0xF065⟩ (by decide) rfl (mask_formRegFn 0xF x 0x65)

end Sys2Proof.Laws
end

