-- ==== Sys2Proof/Laws/Step.lean ====
section
/-! SUPPORT. What executing an instruction can do, and what a tick can do, each said once as an inversion lemma. -/

namespace Sys2Proof.Machine

/-- `t` is `s` but for the parts an instruction without a fault may write: nothing of the status registers, of `STARTED` or of
the inputs. -/
def State.SameStatus (s t : State) : Prop :=
  t.halted = s.halted ∧ t.cause = s.cause ∧ t.faultPc = s.faultPc ∧ t.faultWord = s.faultWord ∧
  t.started = s.started ∧ t.keys = s.keys ∧ t.rand = s.rand ∧ t.inputs = s.inputs ∧ t.tickNo = s.tickNo

theorem State.sameStatus_refl (s : State) : s.SameStatus s := ⟨rfl, rfl, rfl, rfl, rfl, rfl, rfl, rfl, rfl⟩

theorem State.sameStatus_setRegsFrom (s : State) (k : Nat) (bs : List Byte) : s.SameStatus (s.setRegsFrom k bs) := by
  obtain ⟨v, h⟩ := State.setRegsFrom_eq bs s k
  rw [h]
  exact s.sameStatus_refl

/-- Assigning keys writes registers and `PC` alone. -/
theorem State.assignKeys_eq : ∀ (ks : List (BitVec 4)) (s : State) (x : Reg),
    ∃ v p, s.assignKeys x ks = { s with v := v, pc := p }
  | [], s, _ => ⟨s.v, s.pc, rfl⟩
  | k :: ks, s, x => by
    obtain ⟨v, p, h⟩ := State.assignKeys_eq ks ((s.setReg x (k.setWidth 8)).skipIf true) x
    exact ⟨v, p, by rw [State.assignKeys, h]; rfl⟩

/-- The key wait writes registers and `PC` alone, under either policy. -/
theorem State.keyWait_eq (s : State) (policy : KeyWaitPolicy) (x : Reg) :
    ∃ v p, s.keyWait policy x = { s with v := v, pc := p } := by
  unfold State.keyWait
  split
  · split
    · exact ⟨s.v, _, rfl⟩
    · exact ⟨_, s.pc, rfl⟩
  · obtain ⟨v, p, h⟩ := State.assignKeys_eq s.heldKeys (s.setPc s.instrAddr) x
    exact ⟨v, p, by rw [h]; rfl⟩

/-- Everything `exec` can answer as a next state: the entry of a fault of the instruction, or a state with the status
registers as before. -/
theorem exec_cases {i : Instr} {s t : State} (h : exec i s = .next t) :
    (∃ c, c ≠ .none ∧ t = s.enterFault c (s.pc - 2) (encode i)) ∨ s.SameStatus t := by
  cases i
  case ret =>
    simp only [exec, execRet] at h
    split at h
    · cases h; exact .inl ⟨.stackUnderflow, nofun, rfl⟩
    · split at h
      · cases h; exact .inr s.sameStatus_refl
      · cases h
  case callNnn =>
    simp only [exec, execCallNnn] at h
    split at h
    · cases h; exact .inl ⟨.stackOverflow, nofun, rfl⟩
    · split at h
      · cases h; exact .inr s.sameStatus_refl
      · cases h
  case skpVx =>
    simp only [exec, execSkpVx] at h
    split at h
    · cases h; exact .inl ⟨.keyRange, nofun, rfl⟩
    · cases h; rw [State.skipIf_eq]; exact .inr s.sameStatus_refl
  case sknpVx =>
    simp only [exec, execSknpVx] at h
    split at h
    · cases h; exact .inl ⟨.keyRange, nofun, rfl⟩
    · cases h; rw [State.skipIf_eq]; exact .inr s.sameStatus_refl
  case drwVxVyN =>
    simp only [exec, execDrwVxVyN] at h
    split at h
    · cases h; exact .inr s.sameStatus_refl
    · cases h; exact .inl ⟨.dataRange, nofun, rfl⟩
  case ldBVx =>
    simp only [exec, execLdBVx, State.storeBlock_eq] at h
    split at h
    · next hm => split at hm <;> cases hm; cases h; exact .inr s.sameStatus_refl
    · cases h; exact .inl ⟨.dataRange, nofun, rfl⟩
  case ldIIndVx =>
    simp only [exec, execLdIIndVx, State.storeBlock_eq] at h
    split at h
    · next hm => split at hm <;> cases hm; cases h; exact .inr s.sameStatus_refl
    · cases h; exact .inl ⟨.dataRange, nofun, rfl⟩
  case ldVxIInd =>
    simp only [exec, execLdVxIInd] at h
    split at h
    · cases h; exact .inr (s.sameStatus_setRegsFrom _ _)
    · cases h; exact .inl ⟨.dataRange, nofun, rfl⟩
  case ldVxK x =>
    obtain ⟨v, p, e⟩ := s.keyWait_eq Config.keyWaitPolicy x
    simp only [exec, execLdVxK, e] at h
    cases h
    exact .inr s.sameStatus_refl
  case seVxNn => cases h; rw [State.skipIf_eq]; exact .inr s.sameStatus_refl
  case sneVxNn => cases h; rw [State.skipIf_eq]; exact .inr s.sameStatus_refl
  case seVxVy => cases h; rw [State.skipIf_eq]; exact .inr s.sameStatus_refl
  case sneVxVy => cases h; rw [State.skipIf_eq]; exact .inr s.sameStatus_refl
  all_goals cases h; exact .inr s.sameStatus_refl

/-- Everything a tick can answer as a next state: nothing while halted; a fetch fault; an illegal word; or what the decoded
instruction leaves. -/
theorem step_cases {s t : State} (h : step s = .next t) :
    (s.halted = true ∧ t = s.beginTick) ∨
    (s.halted = false ∧ s.beginTick.timerPhase.fetchWord = none ∧ t = s.beginTick.timerPhase.fetchFault) ∨
    (s.halted = false ∧ ∃ w, s.beginTick.timerPhase.fetchWord = some w ∧ decodeWord w = .error (.illegalInstruction w) ∧
      t = s.beginTick.timerPhase.illegalFault w) ∨
    (s.halted = false ∧ ∃ w i, s.beginTick.timerPhase.fetchWord = some w ∧ decodeWord w = .ok i ∧
      exec i s.beginTick.timerPhase.advance = .next t) := by
  unfold step runTick at h
  split at h
  · next hh => cases h; exact .inl ⟨by simpa using hh, rfl⟩
  · next hh =>
    have hr : s.halted = false := by simpa using hh
    split at h
    · next hf => cases h; exact .inr (.inl ⟨hr, hf, rfl⟩)
    · next w hf =>
      split at h
      · next e hd =>
        cases h
        refine .inr (.inr (.inl ⟨hr, w, hf, ?_, rfl⟩))
        unfold decodeWord at hd ⊢
        split at hd
        · cases hd
        · rfl
      · next i hd => exact .inr (.inr (.inr ⟨hr, w, i, hf, hd, h⟩))

/-- Fetching reads `PC` and memory alone, so the phases before it change nothing of it. -/
theorem State.fetchWord_beginTick (s : State) : s.beginTick.timerPhase.fetchWord = s.fetchWord := by
  simp [State.fetchWord, State.byteAt]

end Sys2Proof.Machine
end

