-- ==== Sys2Proof/Tests/Slice0.lean ====
section
/-! SUPPORT. Tests. Expected results are the spec's: the words from its encodings (spec/30_encoding.md R81, R84), the effects
from spec/95_test_vectors.md (S and T numbers). The last part gives, for every statement with hypotheses, a state and operands
that meet them (the witnesses). -/

namespace Sys2Proof.Tests

open Sys2Proof.Machine Sys2Proof.Claims

-- One theorem after another: kernel evaluations side by side can exceed the memory limit of the check.
set_option Elab.async false

/-! ### Well-formedness: each check refuses a value one too wide for its field (R82) -/

theorem test_wf_register : Instr.regFits 15 = true ∧ Instr.regFits 16 = false := by decide
theorem test_wf_address : Instr.addrFits 4095 = true ∧ Instr.addrFits 4096 = false := by decide
theorem test_wf_immediate : Instr.immFits 255 = true ∧ Instr.immFits 256 = false := by decide
theorem test_wf_rows : Instr.rowsFit 15 = true ∧ Instr.rowsFit 16 = false := by decide
theorem test_wf_instruction : (Instr.drwVxVyN 15 15 15).wellFormed = true := by decide

/-! ### Decoding: a word of each row, written out from R81 and R84 -/

theorem test_decode_cls : decodeTableWord 16 0x00E0 = some (.cls) ∧ encode (.cls) = 0x00E0 := by decide
theorem test_decode_ret : decodeTableWord 16 0x00EE = some (.ret) ∧ encode (.ret) = 0x00EE := by decide
theorem test_decode_jp : decodeTableWord 16 0x1ABC = some (.jpNnn 0xABC) ∧ encode (.jpNnn 0xABC) = 0x1ABC := by decide
theorem test_decode_call : decodeTableWord 16 0x2500 = some (.callNnn 0x500) ∧ encode (.callNnn 0x500) = 0x2500 := by decide
theorem test_decode_se_imm : decodeTableWord 16 0x3A42 = some (.seVxNn 0xA 0x42) ∧ encode (.seVxNn 0xA 0x42) = 0x3A42 := by decide
theorem test_decode_sne_imm : decodeTableWord 16 0x4A42 = some (.sneVxNn 0xA 0x42) ∧ encode (.sneVxNn 0xA 0x42) = 0x4A42 := by decide
theorem test_decode_se_reg : decodeTableWord 16 0x5120 = some (.seVxVy 1 2) ∧ encode (.seVxVy 1 2) = 0x5120 := by decide
theorem test_decode_sne_reg : decodeTableWord 16 0x9120 = some (.sneVxVy 1 2) ∧ encode (.sneVxVy 1 2) = 0x9120 := by decide
theorem test_decode_ld_imm : decodeTableWord 16 0x6CFF = some (.ldVxNn 0xC 0xFF) ∧ encode (.ldVxNn 0xC 0xFF) = 0x6CFF := by decide
theorem test_decode_add_imm : decodeTableWord 16 0x70FF = some (.addVxNn 0 0xFF) ∧ encode (.addVxNn 0 0xFF) = 0x70FF := by decide
theorem test_decode_ld_reg : decodeTableWord 16 0x8EF0 = some (.ldVxVy 0xE 0xF) ∧ encode (.ldVxVy 0xE 0xF) = 0x8EF0 := by decide
theorem test_decode_or : decodeTableWord 16 0x8121 = some (.orVxVy 1 2) ∧ encode (.orVxVy 1 2) = 0x8121 := by decide
theorem test_decode_and : decodeTableWord 16 0x8122 = some (.andVxVy 1 2) ∧ encode (.andVxVy 1 2) = 0x8122 := by decide
theorem test_decode_xor : decodeTableWord 16 0x8123 = some (.xorVxVy 1 2) ∧ encode (.xorVxVy 1 2) = 0x8123 := by decide
theorem test_decode_add_reg : decodeTableWord 16 0x8F14 = some (.addVxVy 0xF 1) ∧ encode (.addVxVy 0xF 1) = 0x8F14 := by decide
theorem test_decode_sub : decodeTableWord 16 0x80F5 = some (.subVxVy 0 0xF) ∧ encode (.subVxVy 0 0xF) = 0x80F5 := by decide
theorem test_decode_shr : decodeTableWord 16 0x8016 = some (.shrVxVy 0 1) ∧ encode (.shrVxVy 0 1) = 0x8016 := by decide
theorem test_decode_subn : decodeTableWord 16 0x8127 = some (.subnVxVy 1 2) ∧ encode (.subnVxVy 1 2) = 0x8127 := by decide
theorem test_decode_shl : decodeTableWord 16 0x801E = some (.shlVxVy 0 1) ∧ encode (.shlVxVy 0 1) = 0x801E := by decide
theorem test_decode_ld_i : decodeTableWord 16 0xA123 = some (.ldINnn 0x123) ∧ encode (.ldINnn 0x123) = 0xA123 := by decide
theorem test_decode_jp_v0 : decodeTableWord 16 0xB300 = some (.jpV0Nnn 0x300) ∧ encode (.jpV0Nnn 0x300) = 0xB300 := by decide
theorem test_decode_rnd : decodeTableWord 16 0xC30F = some (.rndVxNn 3 0x0F) ∧ encode (.rndVxNn 3 0x0F) = 0xC30F := by decide
theorem test_decode_drw : decodeTableWord 16 0xD124 = some (.drwVxVyN 1 2 4) ∧ encode (.drwVxVyN 1 2 4) = 0xD124 := by decide
theorem test_decode_skp : decodeTableWord 16 0xE19E = some (.skpVx 1) ∧ encode (.skpVx 1) = 0xE19E := by decide
theorem test_decode_sknp : decodeTableWord 16 0xE1A1 = some (.sknpVx 1) ∧ encode (.sknpVx 1) = 0xE1A1 := by decide
theorem test_decode_ld_vx_dt : decodeTableWord 16 0xF107 = some (.ldVxDt 1) ∧ encode (.ldVxDt 1) = 0xF107 := by decide
theorem test_decode_ld_dt_vx : decodeTableWord 16 0xF015 = some (.ldDtVx 0) ∧ encode (.ldDtVx 0) = 0xF015 := by decide
theorem test_decode_ld_st_vx : decodeTableWord 16 0xF218 = some (.ldStVx 2) ∧ encode (.ldStVx 2) = 0xF218 := by decide
theorem test_decode_add_i : decodeTableWord 16 0xF21E = some (.addIVx 2) ∧ encode (.addIVx 2) = 0xF21E := by decide
theorem test_decode_ld_vx_k : decodeTableWord 16 0xF30A = some (.ldVxK 3) ∧ encode (.ldVxK 3) = 0xF30A := by decide
theorem test_decode_ld_f : decodeTableWord 16 0xF029 = some (.ldFVx 0) ∧ encode (.ldFVx 0) = 0xF029 := by decide
theorem test_decode_ld_b : decodeTableWord 16 0xFA33 = some (.ldBVx 0xA) ∧ encode (.ldBVx 0xA) = 0xFA33 := by decide
theorem test_decode_store_regs : decodeTableWord 16 0xF255 = some (.ldIIndVx 2) ∧ encode (.ldIIndVx 2) = 0xF255 := by decide
theorem test_decode_load_regs : decodeTableWord 16 0xF265 = some (.ldVxIInd 2) ∧ encode (.ldVxIInd 2) = 0xF265 := by decide

/-- S2: the bytes 0xF0, 0x15 are the word 0xF015, and a third byte is left. -/
theorem test_decode_bytes : decode [0xF0, 0x15, 0x99] = .ok (.ldDtVx 0, [0x99]) ∧ decode [0xF0] = .error .truncated := by decide

/-- T105 to T116: the illegal words. -/
theorem test_illegal_words :
    ([0x0000, 0x00E1, 0x01E0, 0x0123, 0x5121, 0x9001, 0x8008, 0x800F, 0xE09F, 0xF000, 0xF075, 0xFFFF].all
      fun w => decodeTableWord 16 w == none) = true ∧
    decodeWord 0x5121 = .error (.illegalInstruction 0x5121) := by decide +kernel

/-! ### One tick on the reset state with one word at 0x200 (the conventions of spec/95_test_vectors.md part 2) -/

/-- The start state: a word at 0x200, and changes. -/
def start (w : Nat) (change : State → State) : State := change (State.reset.withFetchWord 16 w)

/-- The state after a tick is a next state that passes the check. -/
def ends (r : Result) (check : State → Bool) : Bool :=
  match r with
  | .next t => check t
  | .fault _ => false
  | .refused _ => false

/-- One tick of a word with `KEYS` and `RAND`. -/
def after (w : Nat) (change : State → State) (check : State → Bool) (keys : BitVec 16 := 0) (rand : Byte := 0) : Bool :=
  ends (tick (start w change) keys rand) check

/-- The halted end state of a fault at 0x200. -/
def faulted (c : BitVec 3) (w : Word) (t : State) : Bool :=
  t.halted && t.cause.code == c && t.faultPc == 0x200 && t.faultWord == w && t.pc == 0x200

/-- Store bytes, for a start state. -/
def withBytes (a : Nat) (bs : List Byte) (s : State) : State := { s with mem := s.mem.writeList a bs }

/-- Set pixels `(x, y)` on, for a start state. -/
def withPixels (ps : List (Fin 64 × Fin 32)) (s : State) : State :=
  s.setFb (ps.foldl (fun fb p => FrameBuffer.setPixel fb p.2 p.1 true) s.fb)

/-- The pixels that are on are the listed `(x, y)`. -/
def onPixels (ps : List (Fin 64 × Fin 32)) (t : State) : Bool := t.fb == (withPixels ps State.reset).fb

/-- T1, T2. -/
theorem test_se_imm :
    after 0x3A42 (fun s => s.setReg 0xA 0x42) (fun t => t.pc == 0x204) = true ∧
    after 0x3A42 (fun s => s.setReg 0xA 0x43) (fun t => t.pc == 0x202) = true := by decide +kernel

/-- T3, T4. -/
theorem test_sne_imm :
    after 0x4A42 (fun s => s.setReg 0xA 0x43) (fun t => t.pc == 0x204) = true ∧
    after 0x4A42 (fun s => s.setReg 0xA 0x42) (fun t => t.pc == 0x202) = true := by decide +kernel

/-- T5, T6. -/
theorem test_se_reg :
    after 0x5120 (fun s => s.setReg 1 7 |>.setReg 2 7) (fun t => t.pc == 0x204) = true ∧
    after 0x5120 (fun s => s.setReg 1 7 |>.setReg 2 8) (fun t => t.pc == 0x202) = true := by decide +kernel

/-- T7, T8. -/
theorem test_sne_reg :
    after 0x9120 (fun s => s.setReg 1 7 |>.setReg 2 8) (fun t => t.pc == 0x204) = true ∧
    after 0x9120 (fun s => s.setReg 1 7 |>.setReg 2 7) (fun t => t.pc == 0x202) = true := by decide +kernel

/-- T12, T14: a target that cannot be fetched from is accepted. -/
theorem test_jp :
    after 0x1ABC (fun s => s) (fun t => t.pc == 0xABC) = true ∧
    after 0x1FFF (fun s => s) (fun t => t.pc == 0xFFF && !t.halted) = true := by decide +kernel

/-- T16: the sum is not reduced to 12 bits. -/
theorem test_jp_v0 :
    after 0xBFFF (fun s => s.setReg 0 0xFF) (fun t => t.pc == 0x10FE && !t.halted) = true := by decide +kernel

/-- S4, T17. -/
theorem test_call :
    after 0x2500 (fun s => s) (fun t => t.slot 0 == some 0x202 && t.sp == 1 && t.pc == 0x500) = true ∧
    after 0x2300 (fun s => s.setSp 15) (fun t => t.slot 15 == some 0x202 && t.sp == 16 && t.pc == 0x300) = true := by decide +kernel

/-- T18. -/
theorem test_call_full :
    after 0x2300 (fun s => s.setSp 16) (fun t => faulted 3 0x2300 t && t.sp == 16) = true := by decide +kernel

/-- S3, T20: the popped slots keep their values. -/
theorem test_ret :
    after 0x00EE (fun s => (s.setSlot 0 0xFFF).setSp 1) (fun t => t.sp == 0 && t.pc == 0xFFF && t.slot 0 == some 0xFFF) = true ∧
    after 0x00EE (fun s => ((s.setSlot 0 0x111).setSlot 1 0x346).setSp 2) (fun t => t.sp == 1 && t.pc == 0x346) = true := by decide +kernel

/-- T19. -/
theorem test_ret_empty :
    after 0x00EE (fun s => s) (fun t => faulted 4 0x00EE t && t.sp == 0) = true := by decide +kernel

/-- T23, T24. -/
theorem test_ld_imm :
    after 0x6CFF (fun s => s) (fun t => t.reg 0xC == 0xFF && t.pc == 0x202) = true ∧
    after 0x6F07 (fun s => s) (fun t => t.reg 0xF == 0x07) = true := by decide +kernel

/-- T26, T27: no carry is written. -/
theorem test_add_imm :
    after 0x7001 (fun s => s.setReg 0 0xFF |>.setReg 0xF 1) (fun t => t.reg 0 == 0 && t.reg 0xF == 1) = true ∧
    after 0x7FFF (fun s => s.setReg 0xF 2) (fun t => t.reg 0xF == 1) = true := by decide +kernel

/-- T28. -/
theorem test_ld_reg :
    after 0x8120 (fun s => s.setReg 1 0x11 |>.setReg 2 0x99) (fun t => t.reg 1 == 0x99 && t.reg 2 == 0x99) = true := by decide +kernel

/-- T29. -/
theorem test_or :
    after 0x8121 (fun s => s.setReg 1 0x0C |>.setReg 2 0x0A |>.setReg 0xF 1) (fun t => t.reg 1 == 0x0E && t.reg 0xF == 1) = true := by decide +kernel

/-- T30. -/
theorem test_and :
    after 0x8122 (fun s => s.setReg 1 0x0C |>.setReg 2 0x0A |>.setReg 0xF 1) (fun t => t.reg 1 == 0x08 && t.reg 0xF == 1) = true := by decide +kernel

/-- T31, T32. -/
theorem test_xor :
    after 0x8123 (fun s => s.setReg 1 0x0C |>.setReg 2 0x0A |>.setReg 0xF 1) (fun t => t.reg 1 == 0x06 && t.reg 0xF == 1) = true ∧
    after 0x8003 (fun s => s.setReg 0 0x5A) (fun t => t.reg 0 == 0) = true := by decide +kernel

/-- T34, T35: the carry starts at 256. -/
theorem test_add_reg :
    after 0x8014 (fun s => s.setReg 0 0xFF |>.setReg 1 0) (fun t => t.reg 0 == 0xFF && t.reg 0xF == 0) = true ∧
    after 0x8014 (fun s => s.setReg 0 0xFF |>.setReg 1 1) (fun t => t.reg 0 == 0 && t.reg 0xF == 1) = true := by decide +kernel

/-- T44b, T44c. -/
theorem test_add_reg_flag :
    after 0x8F14 (fun s => s.setReg 0xF 0xFF |>.setReg 1 2) (fun t => t.reg 0xF == 1) = true ∧
    after 0x80F4 (fun s => s.setReg 0 0xFF |>.setReg 0xF 1) (fun t => t.reg 0 == 0 && t.reg 0xF == 1) = true := by decide +kernel

/-- S7, T37: the comparison is strict. -/
theorem test_sub :
    after 0x8015 (fun s => s.setReg 0 0xFF |>.setReg 1 0x0F) (fun t => t.reg 0 == 0xF0 && t.reg 0xF == 1) = true ∧
    after 0x8015 (fun s => s.setReg 0 7 |>.setReg 1 7 |>.setReg 0xF 1) (fun t => t.reg 0 == 0 && t.reg 0xF == 0) = true := by decide +kernel

/-- T44d, T44e. -/
theorem test_sub_flag :
    after 0x8F15 (fun s => s.setReg 0xF 9 |>.setReg 1 4) (fun t => t.reg 0xF == 5) = true ∧
    after 0x80F5 (fun s => s.setReg 0 5 |>.setReg 0xF 3) (fun t => t.reg 0 == 2 && t.reg 0xF == 1) = true := by decide +kernel

/-- T42, T44h: the source is `V[y]`. -/
theorem test_shr :
    after 0x8016 (fun s => s.setReg 0 0xAA |>.setReg 1 1) (fun t => t.reg 0 == 0 && t.reg 0xF == 1 && t.reg 1 == 1) = true ∧
    after 0x80F6 (fun s => s.setReg 0 0x77 |>.setReg 0xF 3) (fun t => t.reg 0 == 1 && t.reg 0xF == 1) = true := by decide +kernel

/-- T40, T44f. -/
theorem test_subn :
    after 0x8017 (fun s => s.setReg 0 2 |>.setReg 1 0xA) (fun t => t.reg 0 == 8 && t.reg 0xF == 1) = true ∧
    after 0x8F17 (fun s => s.setReg 0xF 4 |>.setReg 1 9) (fun t => t.reg 0xF == 5) = true := by decide +kernel

/-- T44, T44i. -/
theorem test_shl :
    after 0x801E (fun s => s.setReg 0 0x55 |>.setReg 1 0x81) (fun t => t.reg 0 == 2 && t.reg 0xF == 1 && t.reg 1 == 0x81) = true ∧
    after 0x8F1E (fun s => s.setReg 1 0xC0) (fun t => t.reg 0xF == 0x80) = true := by decide +kernel

/-- T48. -/
theorem test_ld_i :
    after 0xAFFF (fun s => s) (fun t => t.i == 0xFFF) = true := by decide +kernel

/-- T50, T51. -/
theorem test_add_i :
    after 0xF01E (fun s => s.setReg 0 1 |>.setI 0xFFF) (fun t => t.i == 0x1000 && !t.halted) = true ∧
    after 0xF01E (fun s => s.setReg 0 1 |>.setI 0xFFFF) (fun t => t.i == 0 && t.reg 0xF == 0) = true := by decide +kernel

/-- T53, T54. -/
theorem test_ld_f :
    after 0xF029 (fun s => s.setReg 0 0xA) (fun t => t.i == 0x032) = true ∧
    after 0xF029 (fun s => s.setReg 0 0xFF) (fun t => t.i == 0x4FB) = true := by decide +kernel

/-- T58. -/
theorem test_ld_b :
    after 0xF033 (fun s => s.setReg 0 123 |>.setI 0xFFD) (fun t => [t.byteAt 0xFFD, t.byteAt 0xFFE, t.byteAt 0xFFF] == [1, 2, 3] && t.i == 0xFFD) = true := by decide +kernel

/-- T59. -/
theorem test_ld_b_range :
    after 0xF033 (fun s => s.setReg 0 123 |>.setI 0xFFE) (fun t => faulted 5 0xF033 t && t.byteAt 0xFFE == 0 && t.byteAt 0xFFF == 0) = true := by decide +kernel

/-- T45. -/
theorem test_store_regs :
    after 0xF255 (fun s => s.setReg 0 0x11 |>.setReg 1 0x22 |>.setReg 2 0x33 |>.setReg 3 0x44 |>.setI 0x400) (fun t => [t.byteAt 0x400, t.byteAt 0x401, t.byteAt 0x402, t.byteAt 0x403] == [0x11, 0x22, 0x33, 0] && t.i == 0x400) = true := by decide +kernel

/-- T62. -/
theorem test_store_regs_range :
    after 0xFF55 (fun s => s.setReg 0 1 |>.setReg 0xF 0xEE |>.setI 0xFF1) (fun t => faulted 5 0xFF55 t && t.byteAt 0xFF1 == 0) = true := by decide +kernel

/-- T46. -/
theorem test_load_regs :
    after 0xF265 (fun s => s.setReg 3 0x99 |>.setI 0x400 |> withBytes 0x400 [0x11, 0x22, 0x33, 0x44]) (fun t => [t.reg 0, t.reg 1, t.reg 2, t.reg 3] == [0x11, 0x22, 0x33, 0x99] && t.i == 0x400) = true := by decide +kernel

/-- T64, T65. -/
theorem test_load_regs_range :
    after 0xF065 (fun s => s.setReg 0 9 |>.setI 0x1000) (fun t => faulted 5 0xF065 t && t.reg 0 == 9) = true ∧
    after 0xF065 (fun s => s) (fun t => t.reg 0 == 0xF0) = true := by decide +kernel

/-- T67. -/
theorem test_rnd :
    after 0xC30F (fun s => s) (fun t => t.reg 3 == 0x07) 0 0xA7 = true := by decide +kernel

/-- T72, T74. -/
theorem test_skp :
    after 0xE19E (fun s => s.setReg 1 5) (fun t => t.pc == 0x204) 0x0020 = true ∧
    after 0xE19E (fun s => s.setReg 1 5) (fun t => t.pc == 0x202) 0xFFDF = true := by decide +kernel

/-- T75. -/
theorem test_skp_range :
    after 0xE19E (fun s => s.setReg 1 0x10) (fun t => faulted 6 0xE19E t) 0xFFFF = true := by decide +kernel

/-- T77, T78. -/
theorem test_sknp :
    after 0xE1A1 (fun s => s.setReg 1 5) (fun t => t.pc == 0x204) = true ∧
    after 0xE1A1 (fun s => s.setReg 1 0xF) (fun t => t.pc == 0x202) 0x8000 = true := by decide +kernel

/-- T79. -/
theorem test_sknp_range :
    after 0xE1A1 (fun s => s.setReg 1 0xFF) (fun t => faulted 6 0xE1A1 t) = true := by decide +kernel

/-- T80, T93: the timers run during the wait. -/
theorem test_ld_vx_k_waits :
    after 0xF30A (fun s => s.setReg 3 0xAA |>.setDt 3) (fun t => t.pc == 0x200 && t.reg 3 == 0xAA && t.dt == 2) = true := by decide +kernel

/-- T83, T82. -/
theorem test_ld_vx_k :
    after 0xF30A (fun s => s) (fun t => t.reg 3 == 4 && t.pc == 0x202) 0x0090 = true ∧
    after 0xF30A (fun s => s) (fun t => t.reg 3 == 0xF && t.pc == 0x202) 0x8000 = true := by decide +kernel

/-- T84, T86: the other policy. -/
theorem test_every_match :
    ends (.next (({ State.reset with pc := 0x202, keys := 0x0090 } : State).keyWait .everyMatch 3))
      (fun t => t.reg 3 == 7 && t.pc == 0x204) = true ∧
    ends (.next (({ State.reset with pc := 0x202, keys := 0xFFFF } : State).keyWait .everyMatch 3))
      (fun t => t.reg 3 == 0xF && t.pc == 0x220) = true := by decide +kernel

/-- T87. -/
theorem test_ld_vx_dt :
    after 0xF107 (fun s => s.setDt 5) (fun t => t.dt == 4 && t.reg 1 == 4) = true := by decide +kernel

/-- T89. -/
theorem test_ld_dt_vx :
    after 0xF015 (fun s => s.setReg 0 3 |>.setDt 9) (fun t => t.dt == 3) = true := by decide +kernel

/-- T90. -/
theorem test_ld_st_vx :
    after 0xF218 (fun s => s.setReg 2 2) (fun t => t.st == 2 && t.outputs.soundOn) = true := by decide +kernel

/-- T91, T92. -/
theorem test_timers :
    after 0x8000 (fun s => (s.setDt 1).setSt 255) (fun t => t.dt == 0 && t.st == 254) = true ∧
    after 0x8000 (fun s => s) (fun t => t.dt == 0 && t.st == 0) = true := by decide +kernel

/-- S11, T70, T71. -/
theorem test_drw :
    after 0xD124 (fun s => s.setReg 1 10 |>.setReg 2 5 |>.setI 0x300 |> withBytes 0x300 [0xF0, 0xF0, 0xF0, 0xF0]) (fun t => onPixels [(10, 5), (11, 5), (12, 5), (13, 5), (10, 6), (11, 6), (12, 6), (13, 6), (10, 7), (11, 7), (12, 7), (13, 7), (10, 8), (11, 8), (12, 8), (13, 8)] t && t.reg 0xF == 0) = true ∧
    after 0xD124 (fun s => s.setReg 1 10 |>.setReg 2 5 |>.setI 0x300 |> withBytes 0x300 [0xF0, 0xF0, 0xF0, 0xF0] |> withPixels [(10, 5), (11, 5), (12, 5), (13, 5), (10, 6), (11, 6), (12, 6), (13, 6), (10, 7), (11, 7), (12, 7), (13, 7), (10, 8), (11, 8), (12, 8), (13, 8)]) (fun t => onPixels [] t && t.reg 0xF == 1) = true := by decide +kernel

/-- T94, T95. -/
theorem test_drw_wraps :
    after 0xD121 (fun s => s.setReg 1 62 |>.setReg 2 31 |>.setI 0x300 |> withBytes 0x300 [0xFF]) (fun t => onPixels [(62, 31), (63, 31), (0, 31), (1, 31), (2, 31), (3, 31), (4, 31), (5, 31)] t && t.reg 0xF == 0) = true ∧
    after 0xD122 (fun s => s.setReg 1 0xFF |>.setReg 2 0xFF |>.setI 0x300 |> withBytes 0x300 [0x80, 0x80]) (fun t => onPixels [(63, 31), (63, 0)] t && t.reg 0xF == 0) = true := by decide +kernel

/-- T98, T100. -/
theorem test_drw_range :
    after 0xD120 (fun s => s.setReg 0xF 9 |>.setI 0xFFFF) (fun t => onPixels [] t && t.reg 0xF == 0 && !t.halted) = true ∧
    after 0xD122 (fun s => s.setReg 0xF 9 |>.setI 0xFFF) (fun t => faulted 5 0xD122 t && t.reg 0xF == 9 && onPixels [] t) = true := by decide +kernel

/-- T102: the coordinate is the old `V[0xF]`, and the second row is drawn although the first collided. -/
theorem test_drw_flag_coordinate :
    after 0xDF12 (fun s => s.setReg 0xF 5 |>.setReg 1 2 |>.setI 0x300 |> withBytes 0x300 [0x80, 0x80] |> withPixels [(5, 2)]) (fun t => onPixels [(5, 3)] t && t.reg 0xF == 1) = true := by decide +kernel

/-- T103. -/
theorem test_cls :
    after 0x00E0 (fun s => s.setReg 0xF 1 |> withPixels [(3, 3)]) (fun t => onPixels [] t && t.reg 0xF == 1) = true ∧
    (start 0x00E0 id).fbChanged = true := by decide +kernel

/-- T105, T117: the timers of the faulting tick are kept. -/
theorem test_illegal :
    after 0x0000 (fun s => (s.setDt 5).setSt 5) (fun t => faulted 1 0x0000 t && t.dt == 4 && t.st == 4) = true := by decide +kernel

/-- T16, second tick, and T22: an odd address is fetched from. -/
theorem test_fetch_range :
    after 0x8000 (fun s => s.setPc 0x10FE) (fun t => t.halted && t.cause.code == 2 && t.faultPc == 0x10FE && t.faultWord == 0 && t.pc == 0x10FE) = true ∧
    after 0x8000 (fun s => (s.setPc 0x201) |> withBytes 0x201 [0x61, 0x2A]) (fun t => t.reg 1 == 0x2A && t.pc == 0x203) = true := by decide +kernel

/-- T121: a load after the first tick is ignored; before it the bytes are at 0x200. -/
theorem test_load :
    ((({ State.reset with started := true } : State).load [0x12, 0x00]).byteAt 0x200 == 0) = true ∧
    ((State.launch [0x12, 0x00]).byteAt 0x200 == 0x12) = true := by decide +kernel

/-- T118: reset from a halted state. -/
theorem test_reset : ({ State.reset.enterFault .keyRange 0x300 0xE19E with tickNo := 7 } : State).resetEvent =
    { State.reset with tickNo := 7 } := by decide +kernel

/-- The first tick after reset runs the word stored where it fetches. -/
theorem test_withFetchWord : ends (step (State.reset.withFetchWord 16 0x6CFF)) (fun t => t.reg 0xC == 0xFF && t.pc == 0x202 && t.started) = true := by
  decide +kernel

/-! ### Witnesses: for each statement with hypotheses, states and operands that meet them, one for each clause -/

/-- The check holds of a next state. -/
theorem next_of_ends {r : Result} {check : State → Bool} (h : ends r check = true) : ∃ t, r = .next t ∧ check t = true := by
  cases r with
  | next t => exact ⟨t, rfl, h⟩
  | fault _ => cases h
  | refused _ => cases h

/-- The next state, where there is one. -/
def nextOf (r : Result) (otherwise : State) : State :=
  match r with
  | .next t => t
  | .fault _ => otherwise
  | .refused _ => otherwise

/-- A state in phase X at 0x200, with changes. -/
def inPhaseX (change : State → State) : State := change (State.reset.setPc 0x202)

/-- A state whose next tick fetches a word at 0x200 and takes a given input pair. -/
def ready (w : Nat) (change : State → State) : State := (start w change).present ⟨0x0020, 0xA7⟩

theorem witness_DecodeOfEncodeIsTheInstruction : (Instr.drwVxVyN 15 15 15).wellFormed = true := by decide

theorem witness_EncodeOfDecodeIsTheWord : decodeWord 0xFF65 = .ok (.ldVxIInd 0xF) := by decide

theorem witness_DecoderIsTheOpcodeMap :
    rowsMatching 0x0000 = [] ∧ rowsMatching 0xD124 = [⟨23, 0xF000, 0xD000⟩] := by decide +kernel

theorem witness_FlagArithmeticWritesResultAndFlag : (0xE : Reg) ≠ 0xF ∧ (0 : Reg) ≠ 0xF := by decide

/-- The highest `SP` of a call that completes, the lowest and highest of a return that does. -/
theorem witness_CallPushesAndReturnPops :
    (inPhaseX (·.setSp 15)).sp.toNat < 16 ∧ (inPhaseX id).sp.toNat < 16 ∧
    0 < (inPhaseX (·.setSp 1)).sp.toNat ∧ (inPhaseX (·.setSp 1)).sp.toNat ≤ 16 ∧
    0 < (inPhaseX (·.setSp 16)).sp.toNat ∧ (inPhaseX (·.setSp 16)).sp.toNat ≤ 16 := by decide

theorem witness_FullAndEmptyStackFault :
    (inPhaseX (·.setSp 16)).sp.toNat = 16 ∧ (inPhaseX (·.setSp 0)).sp.toNat = 0 := by decide

theorem witness_UnreachableStackPointerStops :
    (inPhaseX (·.setSp 17)).sp.toNat > 16 ∧ (inPhaseX (·.setSp 31)).sp.toNat > 16 := by decide

/-- The highest `SP` of a call; and a subroutine that itself called and returned, so that the slot above is stale. -/
theorem witness_ReturnResumesAfterTheCall :
    (inPhaseX (·.setSp 15)).sp.toNat < 16 ∧ (inPhaseX (·.setSp 14)).sp.toNat < 16 ∧
    ∃ t t' : State, exec (.callNnn 0x300) (inPhaseX (·.setSp 14)) = .next t ∧ t'.sp = t.sp ∧
      t'.slot (inPhaseX (·.setSp 14)).sp.toNat = t.slot (inPhaseX (·.setSp 14)).sp.toNat ∧ t'.slot 15 ≠ t.slot 15 :=
  ⟨by decide, by decide, _, State.setSlot _ 15 0x304, rfl, rfl, rfl, by decide⟩

theorem witness_DecimalStoreWritesThreeDigits : (inPhaseX (·.setI 0xFFD)).i.toNat + 2 ≤ 0xFFF := by decide

theorem witness_RegisterStoreWritesTheBlock :
    (inPhaseX (·.setI 0xFF0)).i.toNat + (0xF : Reg).toNat ≤ 0xFFF ∧
    (inPhaseX (·.setI 0xFFF)).i.toNat + (0 : Reg).toNat ≤ 0xFFF := by decide

theorem witness_RegisterLoadReadsTheBlock :
    (inPhaseX (·.setI 0xFF0)).i.toNat + (0xF : Reg).toNat ≤ 0xFFF ∧
    (inPhaseX (·.setI 0xFFF)).i.toNat + (0 : Reg).toNat ≤ 0xFFF := by decide

/-- The lowest `I` that faults, for each form. -/
theorem witness_OutOfRangeAccessFaults :
    (inPhaseX (·.setI 0xFFE)).i.toNat + 2 > 0xFFF ∧
    (inPhaseX (·.setI 0xFF1)).i.toNat + (0xF : Reg).toNat > 0xFFF ∧
    (0xF : Nibble).toNat > 0 ∧ (inPhaseX (·.setI 0xFF2)).i.toNat + (0xF : Nibble).toNat - 1 > 0xFFF ∧
    (1 : Nibble).toNat > 0 ∧ (inPhaseX (·.setI 0x1000)).i.toNat + (1 : Nibble).toNat - 1 > 0xFFF := by decide

/-- Between the store and the load the registers were cleared. -/
theorem witness_StoreThenLoadRestoresTheRegisters :
    (inPhaseX (·.setI 0xFF0)).i.toNat + (0xF : Reg).toNat ≤ 0xFFF ∧
    ∃ t t' : State, exec (.ldIIndVx 0xF) (inPhaseX (·.setI 0xFF0)) = .next t ∧ t'.i = t.i ∧
      (∀ a, t'.byteAt a = t.byteAt a) ∧ t'.v = Vector.replicate 16 0 := by
  obtain ⟨t, h, -⟩ := next_of_ends (r := exec (.ldIIndVx 0xF) (inPhaseX (·.setI 0xFF0))) (check := fun _ => true)
    (by decide +kernel)
  exact ⟨by decide, t, { t with v := Vector.replicate 16 0 }, h, rfl, fun _ => rfl, rfl⟩

/-- The word 0x1234 stored at the top of memory, and a tick that fetches it. -/
theorem witness_StoredCodeIsFetched :
    ∃ s : State, s.i.toNat + (1 : Reg).toNat ≤ 0xFFF ∧ (0 : Reg).toNat + 1 ≤ (1 : Reg).toNat ∧ s.reg 0 = 0x12 ∧
      s.reg (0 + 1) = 0x34 ∧
      ∃ t t' : State, exec (.ldIIndVx 1) s = .next t ∧ (∀ a, t'.byteAt a = t.byteAt a) ∧
        t'.pc.toNat = s.i.toNat + (0 : Reg).toNat := by
  obtain ⟨t, h, -⟩ := next_of_ends (check := fun _ => true)
    (r := exec (.ldIIndVx 1) (inPhaseX fun s => ((s.setI 0xFFE).setReg 0 0x12).setReg 1 0x34)) (by decide +kernel)
  exact ⟨_, by decide, by decide, by decide, by decide, t, t.setPc 0xFFE, h, fun _ => rfl, rfl⟩

theorem witness_KeySkips :
    ((inPhaseX (·.setReg 1 15)).reg 1).toNat ≤ 15 ∧ ((inPhaseX (·.setReg 1 16)).reg 1).toNat > 15 := by decide

/-- No key; key 0, the lowest; key 15, the highest, alone. -/
theorem witness_KeyWaitTakesTheFirstHeldKey :
    (inPhaseX fun s => { s with keys := 0 }).keys = 0 ∧
    ((inPhaseX fun s => { s with keys := 0xFFFF }).keys.getLsbD 0 = true ∧
      ∀ j, j < 0 → (inPhaseX fun s => { s with keys := 0xFFFF }).keys.getLsbD j = false) ∧
    ((inPhaseX fun s => { s with keys := 0x8000 }).keys.getLsbD 15 = true ∧
      ∀ j, j < 15 → (inPhaseX fun s => { s with keys := 0x8000 }).keys.getLsbD j = false) := by decide

theorem witness_KeyPoliciesAgreeOnOneKey :
    ∀ j, j < 16 → ∀ k, k < 16 → (inPhaseX fun s => { s with keys := 0x8000 }).keys.getLsbD j = true →
      (inPhaseX fun s => { s with keys := 0x8000 }).keys.getLsbD k = true → j = k := by decide +kernel

/-- Keys 4 and 7 held: 7 is the highest. -/
theorem witness_EveryMatchAdvancesPerKey :
    (inPhaseX fun s => { s with keys := 0x0090 }).keys.getLsbD 7 = true ∧
    ∀ j, 7 < j → (inPhaseX fun s => { s with keys := 0x0090 }).keys.getLsbD j = false := by
  refine ⟨by decide, fun j hj => ?_⟩
  by_cases h : j < 16
  · have : ∀ j, j < 16 → 7 < j → (0x0090#16).getLsbD j = false := by decide
    exact this j h hj
  · exact BitVec.getLsbD_of_ge _ _ (by omega)

/-- Another pixel; a 0 bit in column 7 and a 1 bit in column 0 of a byte, each with a pixel of its column. -/
theorem witness_PixelToggle :
    ((0 : Fin 32) ≠ 31 ∨ (0 : Fin 64) ≠ 0) ∧
    ((0xF0 : Byte).getLsbD (7 - 7) = false ∧ (0 : Fin 32).val = ((31 : Byte).toNat + 1) % 32 ∧
      (5 : Fin 64).val = ((62 : Byte).toNat + 7) % 64) ∧
    ((0xF0 : Byte).getLsbD (7 - 0) = true ∧ (62 : Fin 64).val = ((62 : Byte).toNat + 0) % 64 ∧
      FrameBuffer.pixel (withPixels [(62, 0)] State.reset).fb 0 62 = true) := by decide +kernel

theorem witness_ClearTurnsEveryPixelOff : (ready 0x00E0 id).nextInstr = some .cls := by decide +kernel

/-- A sprite of one row at the last address; no row at any address; a 1 bit that lands on a pixel that is on, and on one that
is off. -/
theorem witness_DrawInvertsExactlyTheSpritePixels :
    SpriteInRange (inPhaseX (·.setI 0xFFF)) 1 ∧ SpriteInRange (inPhaseX (·.setI 0xFFFF)) 0 ∧
    SpriteCovers (inPhaseX id) 1 2 1 0 0 ∧ (inPhaseX (withPixels [(0, 0)])).fb.pixel 0 0 = true ∧
    (inPhaseX id).fb.pixel 0 0 = false :=
  ⟨by unfold SpriteInRange; decide, by unfold SpriteInRange; decide,
    ⟨0, 0, by decide, by decide, by unfold SpriteBit; decide +kernel, by decide, by decide⟩, by decide +kernel, by decide +kernel⟩

/-- The font's first row drawn on a clear screen, `x` and `y` not the flag register. -/
theorem witness_DrawingTwiceRestores :
    SpriteInRange (inPhaseX id) 1 ∧
    (∃ t : State, exec (.drwVxVyN 1 2 1) (inPhaseX id) = .next t ∧ t.reg 1 = (inPhaseX id).reg 1 ∧
      t.reg 2 = (inPhaseX id).reg 2) ∧
    SpriteCovers (inPhaseX id) 1 2 1 0 0 ∧ (inPhaseX id).fb.pixel 0 0 = false := by
  obtain ⟨t, h, e⟩ := next_of_ends (r := exec (.drwVxVyN 1 2 1) (inPhaseX id)) (check := fun t => t.reg 1 == 0 && t.reg 2 == 0)
    (by decide +kernel)
  simp only [Bool.and_eq_true, beq_iff_eq] at e
  exact ⟨by unfold SpriteInRange; decide, ⟨t, h, e.1, e.2⟩,
    ⟨0, 0, by decide, by decide, by unfold SpriteBit; decide +kernel, by decide, by decide⟩, by decide +kernel⟩

/-- A clear, a draw in range, a draw out of range, another instruction, and the three ticks that execute none. -/
theorem witness_DisplayNotification :
    (ready 0x00E0 id).nextInstr = some .cls ∧
    ((ready 0xD121 (·.setI 0xFFF)).nextInstr = some (.drwVxVyN 1 2 1) ∧ SpriteInRange (ready 0xD121 (·.setI 0xFFF)) 1) ∧
    ((ready 0xD122 (·.setI 0xFFF)).nextInstr = some (.drwVxVyN 1 2 2) ∧ ¬ SpriteInRange (ready 0xD122 (·.setI 0xFFF)) 2) ∧
    (ready 0x6CFF id).nextInstr = some (.ldVxNn 0xC 0xFF) ∧
    ((State.reset.enterFault .dataRange 0x200 0xF033).halted = true ∧ (State.reset.setPc 0xFFF).pc.toNat > 0xFFE ∧
      State.reset.fetchWord = some 0x0000 ∧ decodeWord 0x0000 = .error (.illegalInstruction 0x0000)) ∧
    State.reset.nextInstr = none := by
  refine ⟨by decide +kernel, ⟨by decide +kernel, ?_⟩, ⟨by decide +kernel, ?_⟩, by decide +kernel, by decide +kernel,
    by decide +kernel⟩ <;> unfold SpriteInRange <;> decide +kernel

/-- The last address that can be fetched from, with an input pair presented. -/
def atTop : State := ((State.reset.setPc 0xFFE).withFetchWord 16 0x6CFF).present ⟨0x0020, 0xA7⟩

theorem witness_StepRunsTheDecodedInstruction :
    atTop.Running ∧ atTop.pc.toNat ≤ 0xFFE ∧
    decode [atTop.byteAt atTop.pc.toNat, atTop.byteAt (atTop.pc.toNat + 1)] = .ok (.ldVxNn 0xC 0xFF, []) ∧
    atTop.inputs = ⟨0x0020, 0xA7⟩ :: [] := by decide +kernel

theorem witness_FetchIsBigEndian : atTop.pc.toNat ≤ 0xFFE ∧ (State.reset.setPc 0x201).pc.toNat ≤ 0xFFE := by decide

/-- A tick that writes no timer, one that writes `DT`, one that writes `ST`. -/
theorem witness_TimersCountDownEveryTick :
    (∃ t, step (ready 0x6CFF id) = .next t) ∧ (ready 0x6CFF id).Running ∧
    (∀ x, (ready 0x6CFF id).nextInstr ≠ some (.ldDtVx x)) ∧ (∀ x, (ready 0x6CFF id).nextInstr ≠ some (.ldStVx x)) ∧
    (∃ t, step (ready 0xF015 id) = .next t) ∧ (ready 0xF015 id).nextInstr = some (.ldDtVx 0) ∧
    (∃ t, step (ready 0xF218 id) = .next t) ∧ (ready 0xF218 id).nextInstr = some (.ldStVx 2) := by
  have h : (ready 0x6CFF id).nextInstr = some (.ldVxNn 0xC 0xFF) := by decide +kernel
  have answers : ∀ w ∈ [0x6CFF, 0xF015, 0xF218], ∃ t, step (ready w id) = .next t := by
    have e : ∀ w ∈ [0x6CFF, 0xF015, 0xF218], ends (step (ready w id)) (fun _ => true) = true := by decide +kernel
    exact fun w hw => (next_of_ends (e w hw)).imp fun _ => And.left
  exact ⟨answers 0x6CFF (by decide), by decide +kernel, by rw [h]; nofun, by rw [h]; nofun, answers 0xF015 (by decide),
    by decide +kernel, answers 0xF218 (by decide), by decide +kernel⟩

/-- `Fx07`, then a jump to itself, with `DT = 2` and `ST = 2`: the ticks of a run. -/
def spin : Nat → State
  | 0 => start 0xF107 fun s =>
    { withBytes 0x202 [0x12, 0x02] s with dt := 2, st := 2, inputs := [⟨0, 0⟩, ⟨0, 0⟩, ⟨0, 0⟩] }
  | n + 1 => nextOf (step (spin n)) (spin n)

/-- The first three ticks of `spin`: they answer, and none writes a timer. -/
theorem spin_ticks : ∀ n, n < 3 → (spin n).Running ∧ step (spin n) = .next (spin (n + 1)) ∧
    ((spin n).nextInstr = some (.ldVxDt 1) ∨ (spin n).nextInstr = some (.jpNnn 0x202)) := by
  have h : ∀ n, n < 3 → (spin n).Running ∧ ends (step (spin n)) (fun _ => true) = true ∧
      ((spin n).nextInstr = some (.ldVxDt 1) ∨ (spin n).nextInstr = some (.jpNnn 0x202)) := by decide +kernel
  intro n hn
  obtain ⟨h1, h2, h3⟩ := h n hn
  obtain ⟨t, e, -⟩ := next_of_ends h2
  exact ⟨h1, by simp [spin, nextOf, e], h3⟩

theorem witness_DelayTimerOverTicks :
    (∀ n, n < 3 → (spin n).Running ∧ step (spin n) = .next (spin (n + 1)) ∧
      ∀ x, (spin n).nextInstr ≠ some (.ldDtVx x)) ∧
    (spin 0).nextInstr = some (.ldVxDt 1) := by
  refine ⟨fun n hn => ?_, by decide +kernel⟩
  obtain ⟨h1, h2, h3 | h3⟩ := spin_ticks n hn <;> exact ⟨h1, h2, by rw [h3]; nofun⟩

theorem witness_SoundTimerOverTicks :
    ∀ n, n < 3 → (spin n).Running ∧ step (spin n) = .next (spin (n + 1)) ∧
      ∀ x, (spin n).nextInstr ≠ some (.ldStVx x) := by
  intro n hn
  obtain ⟨h1, h2, h3 | h3⟩ := spin_ticks n hn <;> exact ⟨h1, h2, by rw [h3]; nofun⟩

theorem witness_FetchAboveTheTopFaults :
    (State.reset.setPc 0xFFF).Running ∧ (State.reset.setPc 0xFFF).pc.toNat > 0xFFE ∧
    (State.reset.setPc 0xFFFF).Running ∧ (State.reset.setPc 0xFFFF).pc.toNat > 0xFFE := by decide

theorem witness_IllegalWordFaults :
    State.reset.Running ∧ State.reset.fetchWord = some 0x0000 ∧
    decodeWord 0x0000 = .error (.illegalInstruction 0x0000) := by decide +kernel

/-- A tick that halts in phase F, one on an illegal word, and one that halts in phase X. -/
theorem witness_FaultsArePrecise :
    ∀ s ∈ [State.reset.setPc 0xFFF, State.reset, ready 0x2300 (·.setSp 16)],
      s.Running ∧ ∃ t, step s = .next t ∧ t.halted = true := by
  have h : ∀ s ∈ [State.reset.setPc 0xFFF, State.reset, ready 0x2300 (·.setSp 16)],
      s.Running ∧ ends (step s) (fun t => t.halted) = true := by decide +kernel
  intro s hs
  obtain ⟨t, e, ht⟩ := next_of_ends (h s hs).2
  exact ⟨(h s hs).1, t, e, ht⟩

theorem witness_HaltedTickChangesNothing : (State.reset.enterFault .dataRange 0x200 0xF033).halted = true := by decide

/-- Each instruction that can fault, halting from a state that is not halted. -/
theorem witness_OnlyTheNamedInstructionsFault :
    ∀ i ∈ [Instr.ret, .callNnn 0x300, .skpVx 1, .sknpVx 1, .ldBVx 0, .ldIIndVx 0xF, .ldVxIInd 0xF, .drwVxVyN 1 2 0xF],
      ∃ s t : State, s.Running ∧ exec i s = .next t ∧ t.halted = true := by
  have h : ∀ i ∈ [Instr.ret, .callNnn 0x300, .skpVx 1, .sknpVx 1, .ldBVx 0, .ldIIndVx 0xF, .ldVxIInd 0xF,
      .drwVxVyN 1 2 0xF],
      ends (exec i (inPhaseX fun s => ((s.setI 0xFFFE).setReg 1 16).setSp (if i = .ret then 0 else 16)))
        (fun t => t.halted) = true := by decide +kernel
  intro i hi
  obtain ⟨t, e, ht⟩ := next_of_ends (h i hi)
  exact ⟨_, t, rfl, e, ht⟩

/-- An instruction none of the clauses names. -/
theorem witness_OnlyTheNamedInstructionsWrite :
    (∃ t, exec (.ldVxNn 0 1) (inPhaseX id) = .next t) ∧ Instr.ldVxNn 0 1 ≠ .ret ∧ (∀ nnn, Instr.ldVxNn 0 1 ≠ .callNnn nnn) ∧
    (∀ x, Instr.ldVxNn 0 1 ≠ .ldBVx x ∧ Instr.ldVxNn 0 1 ≠ .ldIIndVx x) ∧ Instr.ldVxNn 0 1 ≠ .cls ∧
    (∀ x y n, Instr.ldVxNn 0 1 ≠ .drwVxVyN x y n) ∧ (∀ x, Instr.ldVxNn 0 1 ≠ .ldDtVx x) ∧
    (∀ x, Instr.ldVxNn 0 1 ≠ .ldStVx x) :=
  ⟨⟨_, rfl⟩, nofun, nofun, fun _ => ⟨nofun, nofun⟩, nofun, nofun, nofun, nofun⟩

theorem witness_IndexChangedOnlyByItsThreeInstructions :
    ∃ t, exec (.ldINnn 0x123) (inPhaseX id) = .next t ∧ t.i ≠ (inPhaseX id).i := ⟨_, rfl, by decide⟩

/-- The invariant with a full stack, with a byte stored, and halted. -/
theorem witness_StepKeepsTheInvariant :
    ∀ s ∈ [State.reset, ready 0xF033 (fun s => (s.setI 0xFFD).setSp 16),
        { (State.reset.enterFault .keyRange 0x200 0xE19E) with pc := 0x200, started := true }],
      s.Inv ∧ ∃ t, step s = .next t := by
  have h : ∀ s ∈ [State.reset, ready 0xF033 (fun s => (s.setI 0xFFD).setSp 16),
        { (State.reset.enterFault .keyRange 0x200 0xE19E) with pc := 0x200, started := true }],
      s.Inv ∧ ends (step s) (fun _ => true) = true := by decide +kernel
  intro s hs
  obtain ⟨t, e, -⟩ := next_of_ends (h s hs).2
  exact ⟨(h s hs).1, t, e⟩

theorem witness_TickIsTotal : State.reset.Inv ∧ (State.reset.setSp 16).Inv := by decide +kernel

/-- The bound at its highest values. -/
theorem witness_StepKeepsThePcBound :
    ∃ s t : State, s.PcBounded ∧ s.pc = 0x10FE ∧ s.slot 15 = some 0x1000 ∧ step s = .next t := by
  obtain ⟨t, e, -⟩ := next_of_ends (check := fun _ => true) (r := step ((State.reset.setPc 0x10FE).setSlot 15 0x1000))
    (by decide +kernel)
  exact ⟨_, t, by decide +kernel, rfl, by decide, e⟩

/-- Both sides of `STARTED`, and the last byte that is copied of a load one byte too long. -/
theorem witness_LoadCopiesTheProgram :
    State.reset.started = false ∧ (State.reset.beginTick).started = true ∧
    3583 < (List.replicate 3585 (0xAA : Byte)).length ∧ 3583 < 3584 ∧ (0x1000 ≤ 0x1000) :=
  ⟨rfl, rfl, by rw [List.length_replicate]; decide, by decide, by decide⟩

theorem witness_LevelOutputs :
    State.reset.StatusAgree ∧ State.reset.outputs.haltedOut = false ∧
    (State.reset.enterFault .keyRange 0x200 0xE19E).cause = .keyRange := by decide

theorem witness_TickDependsOnItsInputsAlone :
    (∃ t, tick (start 0xC30F id) 0x0020 0xA7 = .next t) ∧ (start 0xC30F id).nextInstr = some (.rndVxNn 3 0x0F) := by
  obtain ⟨t, e, -⟩ := next_of_ends (check := fun _ => true) (r := tick (start 0xC30F id) 0x0020 0xA7) (by decide +kernel)
  exact ⟨⟨t, e⟩, by decide +kernel⟩

/-- T67 after a tick with another sample: the random byte is this tick's, not the earlier one's. -/
theorem test_rnd_fresh_sample :
    after 0xC30F (fun s => { s with rand := 0x58, keys := 0xFFFF, tickNo := 9 }) (fun t => t.reg 3 == 0x07) 0 0xA7 = true := by
  decide +kernel

/-- An instruction that uses `KEYS` alone, one that uses `RAND` alone. -/
theorem witness_OtherInstructionsIgnoreTheInputs :
    (∃ t, exec (.ldVxK 3) (inPhaseX id) = .next t) ∧ (∀ x nn, Instr.ldVxK 3 ≠ .rndVxNn x nn) ∧
    (∃ t, exec (.rndVxNn 3 0x0F) (inPhaseX id) = .next t) ∧
    (∀ x, Instr.rndVxNn 3 0x0F ≠ .skpVx x ∧ Instr.rndVxNn 3 0x0F ≠ .sknpVx x ∧ Instr.rndVxNn 3 0x0F ≠ .ldVxK x) :=
  ⟨⟨_, rfl⟩, nofun, ⟨_, rfl⟩, fun _ => ⟨nofun, nofun, nofun⟩⟩


end Sys2Proof.Tests
end

section
/-! PROOFS. The comparing skips of spec/41_control_flow.md: one rule for what any completing skip answers, and each of the
four instructions is an instance of it with its own comparison. -/

namespace Sys2Proof.Machine

variable (s : State) (x y : Reg) (nn : Byte)

theorem exec_seVxNn : exec (.seVxNn x nn) s = .next (s.skipIf (s.reg x == nn)) := rfl
theorem exec_sneVxNn : exec (.sneVxNn x nn) s = .next (s.skipIf (s.reg x != nn)) := rfl
theorem exec_seVxVy : exec (.seVxVy x y) s = .next (s.skipIf (s.reg x == s.reg y)) := rfl
theorem exec_sneVxVy : exec (.sneVxVy x y) s = .next (s.skipIf (s.reg x != s.reg y)) := rfl

end Sys2Proof.Machine

namespace Sys2Proof.Claims

open Sys2Proof.Machine

theorem frameBut_setPc (s : State) (w : Word) : FrameBut [.pc] [] s (s.setPc w) := by
  refine ⟨fun r _ => s.reg_setPc w r, fun hpc => absurd (List.mem_singleton_self _) hpc, ?_⟩
  exact ⟨fun _ => rfl, fun _ => rfl, fun _ _ => rfl, fun _ => rfl, fun _ => rfl, fun _ _ => rfl, fun _ _ _ => rfl,
    fun _ => ⟨rfl, rfl, rfl, rfl⟩, rfl, rfl, rfl, rfl, rfl⟩

/-- The rule of R130 for every skip: the model's Boolean `taken` decides the spec's condition `c`. -/
theorem answers_of_exec_eq_skipIf {i : Instr} {s : State} {taken : Bool} {c : Prop} [Decidable c]
    (hexec : exec i s = .next (s.skipIf taken)) (htaken : taken = true ↔ c) :
    Answers i s fun t => t.pc = (if c then s.pc + 2 else s.pc) ∧ FrameBut [.pc] [] s t := by
  refine ⟨s.skipIf taken, hexec, ?_⟩
  rw [State.skipIf_eq]
  exact ⟨(State.setPc_pc s _).trans (if_congr htaken rfl rfl), frameBut_setPc s _⟩

theorem beq_iff_toNat_eq (a b : Byte) : (a == b) = true ↔ a.toNat = b.toNat :=
  beq_iff_eq.trans BitVec.toNat_inj.symm

theorem bne_iff_toNat_ne (a b : Byte) : (a != b) = true ↔ a.toNat ≠ b.toNat :=
  bne_iff_ne.trans BitVec.toNat_inj.symm.not

/-- Settles O10: each of the four answers `skipIf` of its comparison, and equality of bytes is equality of their values. -/
theorem comparisonsSkip : Obligations.ComparisonsSkip := fun s x y nn =>
  ⟨answers_of_exec_eq_skipIf (exec_seVxNn s x nn) (beq_iff_toNat_eq _ _),
    answers_of_exec_eq_skipIf (exec_sneVxNn s x nn) (bne_iff_toNat_ne _ _),
    answers_of_exec_eq_skipIf (exec_seVxVy s x y) (beq_iff_toNat_eq _ _),
    answers_of_exec_eq_skipIf (exec_sneVxVy s x y) (bne_iff_toNat_ne _ _)⟩

end Sys2Proof.Claims
end

section
/-! PROOFS. The register loads and the flagless ALU forms of spec/42_load_alu.md: each completes with ONE write of a general
register, and one rule says what such an instruction answers. -/

namespace Sys2Proof.Machine

variable (s : State) (x y : Reg) (nn : Byte)

theorem exec_ldVxNn : exec (.ldVxNn x nn) s = .next (s.setReg x nn) := rfl
theorem exec_addVxNn : exec (.addVxNn x nn) s = .next (s.setReg x (addResult (s.reg x) nn)) := rfl
theorem exec_ldVxVy : exec (.ldVxVy x y) s = .next (s.setReg x (s.reg y)) := rfl
theorem exec_orVxVy : exec (.orVxVy x y) s = .next (s.setReg x (s.reg x ||| s.reg y)) := rfl
theorem exec_andVxVy : exec (.andVxVy x y) s = .next (s.setReg x (s.reg x &&& s.reg y)) := rfl
theorem exec_xorVxVy : exec (.xorVxVy x y) s = .next (s.setReg x (s.reg x ^^^ s.reg y)) := rfl

/-- The wraparound of R150: the 8-bit sum is the sum over the integers, mod 256. -/
theorem toNat_addResult (a b : Byte) : (addResult a b).toNat = (a.toNat + b.toNat) % 256 := BitVec.toNat_ofNat _ 8

end Sys2Proof.Machine

namespace Sys2Proof.Claims

open Sys2Proof.Machine

theorem frameBut_setReg (s : State) {r : Reg} (b : Byte) {parts : List Part} {regs : List Reg} (hr : r ∈ regs) :
    FrameBut parts regs s (s.setReg r b) := by
  refine ⟨fun q hq => s.reg_setReg_other b (ne_of_mem_of_not_mem hr hq).symm, ?_⟩
  exact ⟨fun _ => rfl, fun _ => rfl, fun _ => rfl, fun _ _ => rfl, fun _ => rfl, fun _ => rfl, fun _ _ => rfl,
    fun _ _ _ => rfl, fun _ => ⟨rfl, rfl, rfl, rfl⟩, rfl, rfl, rfl, rfl, rfl⟩

/-- An instruction that completes with the write of `b` to `V[x]`: a property `P` of `b` holds of `V[x]` afterwards, and
`V[x]` is all that changes, whichever register `x` is. -/
theorem answers_of_exec_eq_setReg {i : Instr} {s : State} {x : Reg} {b : Byte} (P : Byte → Prop)
    (hexec : exec i s = .next (s.setReg x b)) (hb : P b) :
    Answers i s fun t => P (t.reg x) ∧ FrameBut [] [x] s t :=
  ⟨s.setReg x b, hexec, (s.reg_setReg_same x b).symm ▸ hb, frameBut_setReg s b (List.mem_singleton_self x)⟩

/-- Settles O6: each of the six writes its value to `V[x]` alone, and the value is the rule's (the sum mod 256 for `7xnn`,
bit by bit for the three bitwise forms). -/
theorem loadsAndBitwiseWriteOnlyTheDestination : Obligations.LoadsAndBitwiseWriteOnlyTheDestination := fun s x y nn =>
  ⟨answers_of_exec_eq_setReg (· = nn) (exec_ldVxNn s x nn) rfl,
    answers_of_exec_eq_setReg (·.toNat = ((s.reg x).toNat + nn.toNat) % 256) (exec_addVxNn s x nn) (toNat_addResult _ _),
    answers_of_exec_eq_setReg (· = s.reg y) (exec_ldVxVy s x y) rfl,
    answers_of_exec_eq_setReg (∀ k, ·.getLsbD k = ((s.reg x).getLsbD k || (s.reg y).getLsbD k)) (exec_orVxVy s x y)
      fun _ => BitVec.getLsbD_or,
    answers_of_exec_eq_setReg (∀ k, ·.getLsbD k = ((s.reg x).getLsbD k && (s.reg y).getLsbD k)) (exec_andVxVy s x y)
      fun _ => BitVec.getLsbD_and,
    answers_of_exec_eq_setReg (∀ k, ·.getLsbD k = ((s.reg x).getLsbD k ^^ (s.reg y).getLsbD k)) (exec_xorVxVy s x y)
      fun _ => BitVec.getLsbD_xor⟩

end Sys2Proof.Claims
end

section
/-! PROOFS. The index register (spec/43_index_memory.md): an instruction that completes with ONE write of `I`, and which
instructions write `I` at all (R187). -/

namespace Sys2Proof.Machine

variable (s : State)

theorem exec_ldINnn (nnn : Addr) : exec (.ldINnn nnn) s = .next (s.setI (addrImm nnn)) := rfl
theorem exec_ldFVx (x : Reg) :
    exec (.ldFVx x) s = .next (s.setI (BitVec.ofNat 16 (Config.glyphBytes * (s.reg x).toNat))) := rfl

theorem toNat_addrImm (nnn : Addr) : (addrImm nnn).toNat = nnn.toNat := BitVec.toNat_setWidth_of_le (by decide)

/-- The glyph address of R183 needs no reduction to 16 bits, whatever the byte is. -/
theorem toNat_glyphAddr (b : Byte) : (BitVec.ofNat 16 (Config.glyphBytes * b.toNat)).toNat = 5 * b.toNat := by
  have hb : b.toNat < 256 := b.isLt
  rw [BitVec.toNat_ofNat, Config.glyphBytes, Nat.mod_eq_of_lt (by omega)]

/-! ### Shared operations leave `I` as it is -/

@[simp] theorem State.skipIf_i (b : Bool) : (s.skipIf b).i = s.i := by rw [State.skipIf_eq, State.setPc_i]

@[simp] theorem State.setRegsFrom_i (k : Nat) (bs : List Byte) : (s.setRegsFrom k bs).i = s.i := by
  obtain ⟨v, h⟩ := State.setRegsFrom_eq bs s k
  rw [h]

@[simp] theorem State.keyWait_i (policy : KeyWaitPolicy) (x : Reg) : (s.keyWait policy x).i = s.i := by
  obtain ⟨v, p, h⟩ := s.keyWait_eq policy x
  rw [h]

theorem State.i_of_storeBlock {s t : State} {bs : List Byte} (h : s.storeBlock bs = some t) : t.i = s.i := by
  rw [State.storeBlock_eq] at h
  split at h
  · cases h; rfl
  · cases h

/-! ### Results that leave `I` as it is -/

/-- Where the result is a next state, `I` is there what it was in `s`. -/
def KeepsIndex (s : State) (r : Result) : Prop := ∀ t, r = .next t → t.i = s.i

variable {s}

theorem keepsIndex_next {t : State} (h : t.i = s.i) : KeepsIndex s (.next t) := fun _ e => by cases e; exact h

theorem keepsIndex_fault (f : Fault) : KeepsIndex s (.fault f) := nofun

theorem keepsIndex_raise (c : Cause) (i : Instr) : KeepsIndex s (s.raise c i) := keepsIndex_next rfl

theorem keepsIndex_ite {c : Prop} [Decidable c] {a b : Result} (ha : KeepsIndex s a) (hb : KeepsIndex s b) :
    KeepsIndex s (if c then a else b) := by
  split
  · exact ha
  · exact hb

variable (s)

/-! ### The instructions that can stop or fault, on every branch -/

theorem keepsIndex_execRet : KeepsIndex s (execRet s) := by
  refine keepsIndex_ite (keepsIndex_raise _ _) ?_
  split
  · exact keepsIndex_next rfl
  · exact keepsIndex_fault _

theorem keepsIndex_execCallNnn (nnn : Addr) : KeepsIndex s (execCallNnn nnn s) := by
  refine keepsIndex_ite (keepsIndex_raise _ _) ?_
  split
  · exact keepsIndex_next rfl
  · exact keepsIndex_fault _

theorem keepsIndex_execSkpVx (x : Reg) : KeepsIndex s (execSkpVx x s) :=
  keepsIndex_ite (keepsIndex_raise _ _) (keepsIndex_next (s.skipIf_i _))

theorem keepsIndex_execSknpVx (x : Reg) : KeepsIndex s (execSknpVx x s) :=
  keepsIndex_ite (keepsIndex_raise _ _) (keepsIndex_next (s.skipIf_i _))

theorem keepsIndex_execDrwVxVyN (x y : Reg) (n : Nibble) : KeepsIndex s (execDrwVxVyN x y n s) := by
  unfold execDrwVxVyN
  split
  · exact keepsIndex_next rfl
  · exact keepsIndex_raise _ _

theorem keepsIndex_execLdBVx (x : Reg) : KeepsIndex s (execLdBVx x s) := by
  unfold execLdBVx
  split
  · next hstore => exact keepsIndex_next (State.i_of_storeBlock hstore)
  · exact keepsIndex_raise _ _

theorem keepsIndex_execLdIIndVx (x : Reg) : KeepsIndex s (execLdIIndVx x s) := by
  unfold execLdIIndVx
  split
  · next hstore => exact keepsIndex_next (State.i_of_storeBlock hstore)
  · exact keepsIndex_raise _ _

theorem keepsIndex_execLdVxIInd (x : Reg) : KeepsIndex s (execLdVxIInd x s) := by
  unfold execLdVxIInd
  split
  · exact keepsIndex_next (s.setRegsFrom_i _ _)
  · exact keepsIndex_raise _ _

/-- Every instruction but the three of R187 leaves `I` as it is, on its fault branches too. -/
theorem keepsIndex_exec_or (i : Instr) :
    KeepsIndex s (exec i s) ∨ (∃ nnn, i = .ldINnn nnn) ∨ (∃ x, i = .addIVx x) ∨ ∃ x, i = .ldFVx x := by
  cases i
  case ldINnn nnn => exact .inr (.inl ⟨nnn, rfl⟩)
  case addIVx x => exact .inr (.inr (.inl ⟨x, rfl⟩))
  case ldFVx x => exact .inr (.inr (.inr ⟨x, rfl⟩))
  all_goals refine .inl ?_
  case ret => exact keepsIndex_execRet s
  case callNnn => exact keepsIndex_execCallNnn s _
  case skpVx => exact keepsIndex_execSkpVx s _
  case sknpVx => exact keepsIndex_execSknpVx s _
  case drwVxVyN => exact keepsIndex_execDrwVxVyN s _ _ _
  case ldBVx => exact keepsIndex_execLdBVx s _
  case ldIIndVx => exact keepsIndex_execLdIIndVx s _
  case ldVxIInd => exact keepsIndex_execLdVxIInd s _
  case ldVxK => exact keepsIndex_next (s.keyWait_i _ _)
  case seVxNn | sneVxNn | seVxVy | sneVxVy => exact keepsIndex_next (s.skipIf_i _)
  all_goals exact keepsIndex_next rfl

end Sys2Proof.Machine

namespace Sys2Proof.Claims

open Sys2Proof.Machine

theorem frameBut_setI (s : State) (w : Word) : FrameBut [.i] [] s (s.setI w) := by
  refine ⟨fun r _ => s.reg_setI w r, fun _ => rfl, fun hi => absurd (List.mem_singleton_self _) hi, ?_⟩
  exact ⟨fun _ => rfl, fun _ _ => rfl, fun _ => rfl, fun _ => rfl, fun _ _ => rfl, fun _ _ _ => rfl,
    fun _ => ⟨rfl, rfl, rfl, rfl⟩, rfl, rfl, rfl, rfl, rfl⟩

/-- An instruction that completes with the write of `w` to `I`: `I` is the number `w` stands for, and nothing else changes. -/
theorem answers_of_exec_eq_setI {i : Instr} {s : State} {w : Word} {n : Nat} (hexec : exec i s = .next (s.setI w))
    (hw : w.toNat = n) : Answers i s fun t => t.i.toNat = n ∧ FrameBut [.i] [] s t :=
  ⟨s.setI w, hexec, hw, frameBut_setI s w⟩

/-- Settles O15: both complete with a write of `I`, and neither value is cut by the 16 bits of `I`. -/
theorem indexLoads : Obligations.IndexLoads := fun s x nnn =>
  ⟨answers_of_exec_eq_setI (exec_ldINnn s nnn) (toNat_addrImm nnn),
    answers_of_exec_eq_setI (exec_ldFVx s x) (toNat_glyphAddr (s.reg x))⟩

/-- Settles O44: an instruction outside the three leaves `I` as it is in whatever state it answers. -/
theorem indexChangedOnlyByItsThreeInstructions : Obligations.IndexChangedOnlyByItsThreeInstructions :=
  fun i s t hexec hi => (keepsIndex_exec_or s i).resolve_left fun hkeeps => hi (hkeeps t hexec)

end Sys2Proof.Claims
end

section
/-! PROOFS. The masked random byte (spec/44_random_keys_timers.md R201): an instance of the rule for one register write. -/

namespace Sys2Proof.Machine

theorem exec_rndVxNn (s : State) (x : Reg) (nn : Byte) :
    exec (.rndVxNn x nn) s = .next (s.setReg x (s.rand &&& nn)) := rfl

end Sys2Proof.Machine

namespace Sys2Proof.Claims

open Sys2Proof.Machine

/-- Settles O23: `Cxnn` completes with one write of `V[x]`, and the byte written is the sample masked bit by bit. -/
theorem randomByteIsMasked : Obligations.RandomByteIsMasked := fun s x nn =>
  answers_of_exec_eq_setReg (∀ k, ·.getLsbD k = (s.rand.getLsbD k && nn.getLsbD k)) (exec_rndVxNn s x nn)
    fun _ => BitVec.getLsbD_and

end Sys2Proof.Claims
end

section
/-! PROOFS. The pixel primitive and one sprite byte (spec/45_display.md R221): the byte toggles the distinct pixels under
its 1 bits, so what it does to a pixel and to the collision record is read off the list of them. -/

namespace Sys2Proof.Machine

/-- Toggling a pixel twice restores the framebuffer; one of the two applications found the pixel on. -/
theorem toggle_toggle (fc : FrameBuffer × Bool) (y : Fin 32) (x : Fin 64) : toggle (toggle fc y x) y x = (fc.1, true) := by
  apply Prod.ext
  · refine FrameBuffer.ext_pixel fun q p => ?_
    rw [pixel_toggle, pixel_toggle, ← Bool.xor_assoc, Bool.xor_self, Bool.false_xor]
  · rw [collided_toggle, collided_toggle, pixel_toggle, decide_eq_true ⟨rfl, rfl⟩, Bool.true_xor, Bool.or_assoc,
      Bool.or_not_self, Bool.or_true]

theorem eq_screenRow_iff (vy : Byte) (row : Nat) (q : Fin 32) : q = screenRow vy row ↔ q.val = (vy.toNat + row) % 32 :=
  Fin.ext_iff

theorem eq_screenCol_iff (vx : Byte) (col : Nat) (p : Fin 64) : p = screenCol vx col ↔ p.val = (vx.toNat + col) % 64 :=
  Fin.ext_iff

theorem rowPixels_zero (vx vy : Byte) (row : Nat) : rowPixels vx vy row 0 = [] := by simp [rowPixels]

/-- A byte of zeros has no pixel to toggle. -/
theorem drawRow_zero (vx vy : Byte) (row : Nat) (fc : FrameBuffer × Bool) : drawRow vx vy row 0 fc = fc := by
  rw [drawRow_eq_fold, rowPixels_zero, List.foldl_nil]

theorem pixel_drawRow (vx vy : Byte) (row : Nat) (b : Byte) (fc : FrameBuffer × Bool) (q : Fin 32) (p : Fin 64) :
    (drawRow vx vy row b fc).1.pixel q p = (decide ((q, p) ∈ rowPixels vx vy row b) ^^ fc.1.pixel q p) := by
  rw [drawRow_eq_fold, (fold_togglePixel _ fc (nodup_rowPixels vx vy row b)).1]

theorem collided_drawRow (vx vy : Byte) (row : Nat) (b : Byte) (fc : FrameBuffer × Bool) :
    (drawRow vx vy row b fc).2 = true ↔ fc.2 = true ∨ ∃ a ∈ rowPixels vx vy row b, fc.1.pixel a.1 a.2 = true := by
  rw [drawRow_eq_fold, (fold_togglePixel _ fc (nodup_rowPixels vx vy row b)).2]

/-- The pixel under a 0 bit is not covered by another bit of the byte either, since the eight columns are distinct. -/
theorem notMem_rowPixels_of_bit_zero {vx vy : Byte} {row col : Nat} {b : Byte} (hcol : col < 8)
    (hbit : b.getLsbD (7 - col) = false) : (screenRow vy row, screenCol vx col) ∉ rowPixels vx vy row b := by
  rw [mem_rowPixels]
  rintro ⟨col', hcol', hbit', hpixel⟩
  rw [← screenCol_inj vx hcol hcol' (congrArg Prod.snd hpixel), hbit] at hbit'
  cases hbit'

/-- A sprite bit that is 0 leaves its pixel as it was (R221). -/
theorem pixel_drawRow_of_bit_zero {vx vy : Byte} {row col : Nat} {b : Byte} (hcol : col < 8)
    (hbit : b.getLsbD (7 - col) = false) (fc : FrameBuffer × Bool) :
    (drawRow vx vy row b fc).1.pixel (screenRow vy row) (screenCol vx col) =
      fc.1.pixel (screenRow vy row) (screenCol vx col) := by
  rw [pixel_drawRow, decide_eq_false (notMem_rowPixels_of_bit_zero hcol hbit), Bool.false_xor]

end Sys2Proof.Machine

namespace Sys2Proof.Claims

open Sys2Proof.Machine

/-- Settles O29: the first four clauses are the pixel primitive's own rules; the clauses about a sprite byte follow from the
list of pixels under its 1 bits, which are distinct. -/
theorem pixelToggle : Obligations.PixelToggle := by
  intro fb collided y x
  refine ⟨?_, fun q p hother => ?_, collided_toggle _ y x, toggle_toggle _ y x, fun vx vy row => drawRow_zero vx vy row _,
    fun vx vy row b => ⟨fun col q p hcol hbit hq hp => ?_, ?_⟩⟩
  · rw [pixel_toggle, decide_eq_true ⟨rfl, rfl⟩, Bool.true_xor]
  · rw [pixel_toggle, decide_eq_false fun ⟨hq, hp⟩ => hother.elim (absurd hq) (absurd hp), Bool.false_xor]
  · rw [(eq_screenRow_iff vy row q).2 hq, (eq_screenCol_iff vx col p).2 hp]
    exact pixel_drawRow_of_bit_zero hcol hbit _
  · rw [collided_drawRow]
    refine or_congr_right ⟨?_, ?_⟩
    · rintro ⟨_, hmem, hon⟩
      obtain ⟨col, hcol, hbit, rfl⟩ := (mem_rowPixels ..).1 hmem
      exact ⟨col, screenRow vy row, screenCol vx col, hcol, hbit, rfl, rfl, hon⟩
    · rintro ⟨col, q, p, hcol, hbit, hq, hp, hon⟩
      rw [← eq_screenRow_iff] at hq
      rw [← eq_screenCol_iff] at hp
      exact ⟨(q, p), (mem_rowPixels ..).2 ⟨col, hcol, hbit, by rw [hq, hp]⟩, hon⟩

end Sys2Proof.Claims
end

section
/-! PROOFS. The sound output (spec/60_exceptions.md R256): `ST_OUT` is the register, and `SOUND_ON` tests it for being 0. -/

namespace Sys2Proof.Machine

@[simp] theorem stOut_outputs (s : State) : s.outputs.stOut = s.st := rfl

@[simp] theorem soundOn_outputs (s : State) : s.outputs.soundOn = s.soundOn := rfl

theorem soundOn_iff_toNat_ne (s : State) : s.soundOn = true ↔ s.st.toNat ≠ 0 :=
  Claims.bne_iff_toNat_ne s.st 0

end Sys2Proof.Machine

namespace Sys2Proof.Claims

open Sys2Proof.Machine

/-- Settles O53: `SOUND_ON` is the test of `ST` against the byte 0, and two bytes differ exactly when their numbers do. -/
theorem soundOutputs : Obligations.SoundOutputs := fun s =>
  ⟨stOut_outputs s, by rw [soundOn_outputs, soundOn_iff_toNat_ne]⟩

end Sys2Proof.Claims
end

section
/-! PROOFS. The decoder and the encoder (spec/30_encoding.md): a word is its fields put together again, so decoding and
encoding undo each other; what decodes matches its own row of R84 and no other, and the rest are the six families of R85. -/

namespace Sys2Proof

/-! ### A word is the concatenation of its fields (R81, R82) -/

theorem formAddr_fields (w : Word) : formAddr (fieldOp w) (fieldNNN w) = w := by
  apply BitVec.eq_of_getLsbD_eq
  intro k hk
  rw [getLsbD_formAddr]
  interval_cases k <;> simp [fieldOp, fieldNNN]

theorem formRegImm_fields (w : Word) : formRegImm (fieldOp w) (fieldX w) (fieldNN w) = w := by
  apply BitVec.eq_of_getLsbD_eq
  intro k hk
  rw [getLsbD_formRegImm]
  interval_cases k <;> simp [fieldOp, fieldX, fieldNN]

theorem formRegReg_fields (w : Word) : formRegReg (fieldOp w) (fieldX w) (fieldY w) (fieldN w) = w := by
  apply BitVec.eq_of_getLsbD_eq
  intro k hk
  rw [getLsbD_formRegReg]
  interval_cases k <;> simp [fieldOp, fieldX, fieldY, fieldN]

/-! ### Decoding by word -/

theorem decodeWord_eq_ok_iff {w : Word} {i : Instr} : decodeWord w = .ok i ↔ decodeLegal w = some i := by
  unfold decodeWord
  split <;> simp_all

theorem decodeWord_eq_error_iff {w : Word} : decodeWord w = .error (.illegalInstruction w) ↔ decodeLegal w = none := by
  unfold decodeWord
  split <;> simp_all

theorem decode_encodeBytes_append (i : Instr) (rest : List Byte) (h : decodeWord (encode i) = .ok i) :
    decode (encodeBytes i ++ rest) = .ok (i, rest) := by
  simp [encodeBytes, decode, h]

/-- The decoder finds the family by the format's first nibble and the row by its fixed sub-field, and reads the operands
back from the format. -/
theorem decodeLegal_encode (i : Instr) : decodeLegal (encode i) = some i := by
  cases i
  case cls => rfl
  case ret => rfl
  case ldVxVy | orVxVy | andVxVy | xorVxVy | addVxVy | subVxVy | shrVxVy | subnVxVy | shlVxVy =>
    simp [encode, decodeLegal, decodeAlu]
  case ldVxDt | ldDtVx | ldStVx | addIVx | ldVxK | ldFVx | ldBVx | ldIIndVx | ldVxIInd =>
    simp [encode, decodeLegal, decodeMisc]
  all_goals simp [encode, decodeLegal]

theorem encode_of_decodeAlu {w : Word} {i : Instr} (hop : fieldOp w = 0x8) (h : decodeAlu w = some i) : encode i = w := by
  have hw := formRegReg_fields w
  simp only [decodeAlu] at h
  repeat' split at h
  all_goals cases h
  all_goals simpa only [encode, *] using hw

theorem encode_of_decodeMisc {w : Word} {i : Instr} (hop : fieldOp w = 0xF) (h : decodeMisc w = some i) : encode i = w := by
  have hw := formRegImm_fields w
  simp only [decodeMisc] at h
  repeat' split at h
  all_goals cases h
  all_goals simpa only [encode, *] using hw

theorem fieldOp_eq_of_toNat_eq {w : Word} {n : Nat} (h : (fieldOp w).toNat = n) : fieldOp w = BitVec.ofNat 4 n := by
  rw [← h, BitVec.ofNat_toNat, BitVec.setWidth_eq]

/-- Every bit of a legal word is a fixed bit of its row or an operand of the instruction it decodes to. -/
theorem encode_of_decodeLegal {w : Word} {i : Instr} (h : decodeLegal w = some i) : encode i = w := by
  have hAddr := formAddr_fields w
  have hRegImm := formRegImm_fields w
  have hRegReg := formRegReg_fields w
  unfold decodeLegal at h
  split at h
  case h_17 => cases h
  all_goals
    rename_i hop
    replace hop := fieldOp_eq_of_toNat_eq hop
    rw [hop] at hAddr hRegImm hRegReg
  case h_1 =>
    split at h
    · next hw => cases h; exact hw.symm
    · split at h
      · next hw => cases h; exact hw.symm
      · cases h
  case h_2 | h_3 | h_11 | h_12 => cases h; exact hAddr
  case h_4 | h_5 | h_7 | h_8 | h_13 => cases h; exact hRegImm
  case h_6 | h_10 =>
    split at h
    · next hn => cases h; rw [hn] at hRegReg; exact hRegReg
    · cases h
  case h_9 => exact encode_of_decodeAlu hop h
  case h_14 => cases h; exact hRegReg
  case h_15 =>
    split at h
    · next hn => cases h; rw [hn] at hRegImm; exact hRegImm
    · split at h
      · next hn => cases h; rw [hn] at hRegImm; exact hRegImm
      · cases h
  case h_16 => exact encode_of_decodeMisc hop h

/-! ### The rows of R84 -/

/-- The encoding of every instruction has the fixed bits of the instruction's own row. -/
theorem encodeFitsRow (i : Instr) : Laws.EncodeFitsRow.Statement i := by
  cases i
  case cls => exact Laws.EncodeFitsRow.cls
  case ret => exact Laws.EncodeFitsRow.ret
  case jpNnn nnn => exact Laws.EncodeFitsRow.jpNnn nnn
  case callNnn nnn => exact Laws.EncodeFitsRow.callNnn nnn
  case seVxNn x nn => exact Laws.EncodeFitsRow.seVxNn x nn
  case sneVxNn x nn => exact Laws.EncodeFitsRow.sneVxNn x nn
  case seVxVy x y => exact Laws.EncodeFitsRow.seVxVy x y
  case sneVxVy x y => exact Laws.EncodeFitsRow.sneVxVy x y
  case ldVxNn x nn => exact Laws.EncodeFitsRow.ldVxNn x nn
  case addVxNn x nn => exact Laws.EncodeFitsRow.addVxNn x nn
  case ldVxVy x y => exact Laws.EncodeFitsRow.ldVxVy x y
  case orVxVy x y => exact Laws.EncodeFitsRow.orVxVy x y
  case andVxVy x y => exact Laws.EncodeFitsRow.andVxVy x y
  case xorVxVy x y => exact Laws.EncodeFitsRow.xorVxVy x y
  case addVxVy x y => exact Laws.EncodeFitsRow.addVxVy x y
  case subVxVy x y => exact Laws.EncodeFitsRow.subVxVy x y
  case shrVxVy x y => exact Laws.EncodeFitsRow.shrVxVy x y
  case subnVxVy x y => exact Laws.EncodeFitsRow.subnVxVy x y
  case shlVxVy x y => exact Laws.EncodeFitsRow.shlVxVy x y
  case ldINnn nnn => exact Laws.EncodeFitsRow.ldINnn nnn
  case jpV0Nnn nnn => exact Laws.EncodeFitsRow.jpV0Nnn nnn
  case rndVxNn x nn => exact Laws.EncodeFitsRow.rndVxNn x nn
  case drwVxVyN x y n => exact Laws.EncodeFitsRow.drwVxVyN x y n
  case skpVx x => exact Laws.EncodeFitsRow.skpVx x
  case sknpVx x => exact Laws.EncodeFitsRow.sknpVx x
  case ldVxDt x => exact Laws.EncodeFitsRow.ldVxDt x
  case ldDtVx x => exact Laws.EncodeFitsRow.ldDtVx x
  case ldStVx x => exact Laws.EncodeFitsRow.ldStVx x
  case addIVx x => exact Laws.EncodeFitsRow.addIVx x
  case ldVxK x => exact Laws.EncodeFitsRow.ldVxK x
  case ldFVx x => exact Laws.EncodeFitsRow.ldFVx x
  case ldBVx x => exact Laws.EncodeFitsRow.ldBVx x
  case ldIIndVx x => exact Laws.EncodeFitsRow.ldIIndVx x
  case ldVxIInd x => exact Laws.EncodeFitsRow.ldVxIInd x

/-- Two rows with a word in common agree on the bits that both fix; no two rows of the table do. -/
theorem opcodeTable_disjoint : ∀ r ∈ opcodeTable, ∀ q ∈ opcodeTable,
    r.pattern &&& q.mask = q.pattern &&& r.mask → r = q := by decide +kernel

theorem matches_iff {r : OpcodeRow} {w : Word} : r.matches w = true ↔ w &&& r.mask = r.pattern := beq_iff_eq

theorem row_unique {r q : OpcodeRow} {w : Word} (hr : r ∈ opcodeTable) (hq : q ∈ opcodeTable)
    (hrw : r.matches w = true) (hqw : q.matches w = true) : r = q := by
  refine opcodeTable_disjoint r hr q hq ?_
  rw [← matches_iff.1 hrw, ← matches_iff.1 hqw, BitVec.and_assoc, BitVec.and_assoc, BitVec.and_comm r.mask]

/-! ### The illegal words (R85) -/

theorem ite_some_eq_none_iff {α : Type} {c : Prop} [Decidable c] {a : α} {o : Option α} :
    (if c then some a else o) = none ↔ ¬ c ∧ o = none := by
  split <;> simp_all

/-- The function nibbles that family 8 does not use. -/
theorem notAluNibble_iff : ∀ f : Nibble,
    (¬ f = 0x0 ∧ ¬ f = 0x1 ∧ ¬ f = 0x2 ∧ ¬ f = 0x3 ∧ ¬ f = 0x4 ∧ ¬ f = 0x5 ∧ ¬ f = 0x6 ∧ ¬ f = 0x7 ∧
      ¬ f = 0xE) ↔
      f ∈ [0x8#4, 0x9#4, 0xA#4, 0xB#4, 0xC#4, 0xD#4, 0xF#4] := by decide

theorem decodeAlu_eq_none_iff (w : Word) :
    decodeAlu w = none ↔ fieldN w ∈ [0x8#4, 0x9#4, 0xA#4, 0xB#4, 0xC#4, 0xD#4, 0xF#4] := by
  simp only [decodeAlu, ite_some_eq_none_iff, ← notAluNibble_iff, and_true]

theorem decodeMisc_eq_none_iff (w : Word) : decodeMisc w = none ↔
    fieldNN w ∉ [0x07#8, 0x0A#8, 0x15#8, 0x18#8, 0x1E#8, 0x29#8, 0x33#8, 0x55#8, 0x65#8] := by
  simp [decodeMisc, ite_some_eq_none_iff]

theorem fieldOp_eq_iff {w : Word} {b : BitVec 4} : fieldOp w = b ↔ (fieldOp w).toNat = b.toNat := BitVec.toNat_inj.symm

/-- The union of the families of R85, one condition on the fields for each. -/
def IllegalFields (w : Word) : Prop :=
    (fieldOp w = 0x0 ∧ w ≠ 0x00E0 ∧ w ≠ 0x00EE) ∨
    (fieldOp w = 0x5 ∧ fieldN w ≠ 0) ∨
    (fieldOp w = 0x8 ∧ fieldN w ∈ [0x8#4, 0x9#4, 0xA#4, 0xB#4, 0xC#4, 0xD#4, 0xF#4]) ∨
    (fieldOp w = 0x9 ∧ fieldN w ≠ 0) ∨
    (fieldOp w = 0xE ∧ fieldNN w ∉ [0x9E#8, 0xA1#8]) ∨
    (fieldOp w = 0xF ∧ fieldNN w ∉ [0x07#8, 0x0A#8, 0x15#8, 0x18#8, 0x1E#8, 0x29#8, 0x33#8, 0x55#8, 0x65#8])

theorem decodeLegal_eq_none_iff (w : Word) : decodeLegal w = none ↔ IllegalFields w := by
  unfold decodeLegal IllegalFields
  simp only [← decodeAlu_eq_none_iff, ← decodeMisc_eq_none_iff]
  split
  case h_17 =>
    have hlt : (fieldOp w).toNat < 16 := (fieldOp w).isLt
    generalize (fieldOp w).toNat = n at *
    interval_cases n <;> contradiction
  all_goals
    rename_i hop
    simp [fieldOp_eq_iff, hop, ite_some_eq_none_iff]

theorem fieldOp_eq_of_and {w m p : Word} (h : w &&& m = p) (hm : fieldOp m = BitVec.allOnes 4) : fieldOp w = fieldOp p := by
  rw [← h, fieldOp, fieldOp, BitVec.extractLsb'_and, ← fieldOp, ← fieldOp, hm, BitVec.and_allOnes]

theorem fieldN_eq_of_and {w m p : Word} (h : w &&& m = p) (hm : fieldN m = BitVec.allOnes 4) : fieldN w = fieldN p := by
  rw [← h, fieldN, fieldN, BitVec.extractLsb'_and, ← fieldN, ← fieldN, hm, BitVec.and_allOnes]

theorem fieldNN_eq_of_and {w m p : Word} (h : w &&& m = p) (hm : fieldNN m = BitVec.allOnes 8) : fieldNN w = fieldNN p := by
  rw [← h, fieldNN, fieldNN, BitVec.extractLsb'_and, ← fieldNN, ← fieldNN, hm, BitVec.and_allOnes]

/-- Every row fixes the family; in the six families of R85 it fixes the sub-field too, to a value that is not R85's. -/
theorem opcodeTable_fixes : ∀ r ∈ opcodeTable, fieldOp r.mask = BitVec.allOnes 4 ∧
    (fieldOp r.pattern = 0x0 → r.mask = BitVec.allOnes 16 ∧ r.pattern ∈ [0x00E0#16, 0x00EE#16]) ∧
    (fieldOp r.pattern = 0x5 ∨ fieldOp r.pattern = 0x9 → fieldN r.mask = BitVec.allOnes 4 ∧ fieldN r.pattern = 0) ∧
    (fieldOp r.pattern = 0x8 → fieldN r.mask = BitVec.allOnes 4 ∧
      fieldN r.pattern ∉ [0x8#4, 0x9#4, 0xA#4, 0xB#4, 0xC#4, 0xD#4, 0xF#4]) ∧
    (fieldOp r.pattern = 0xE → fieldNN r.mask = BitVec.allOnes 8 ∧ fieldNN r.pattern ∈ [0x9E#8, 0xA1#8]) ∧
    (fieldOp r.pattern = 0xF → fieldNN r.mask = BitVec.allOnes 8 ∧
      fieldNN r.pattern ∈ [0x07#8, 0x0A#8, 0x15#8, 0x18#8, 0x1E#8, 0x29#8, 0x33#8, 0x55#8, 0x65#8]) := by
  decide +kernel

/-- The sub-fields that the masks of R84 fix decide between a row and the illegal words of its family. -/
theorem not_illegalFields_of_matches {r : OpcodeRow} {w : Word} (hr : r ∈ opcodeTable) (hw : r.matches w = true) :
    ¬ IllegalFields w := by
  rw [matches_iff] at hw
  obtain ⟨hmask, h0, h59, h8, hE, hF⟩ := opcodeTable_fixes r hr
  have hfamily := fieldOp_eq_of_and hw hmask
  rintro (⟨hop, hcls, hret⟩ | ⟨hop, hn⟩ | ⟨hop, hn⟩ | ⟨hop, hn⟩ | ⟨hop, hnn⟩ | ⟨hop, hnn⟩)
  · obtain ⟨hall, hpat⟩ := h0 (hfamily.symm.trans hop)
    rw [hall, BitVec.and_allOnes] at hw
    rw [← hw, List.mem_pair] at hpat
    exact hpat.elim hcls hret
  · obtain ⟨hall, hpat⟩ := h59 (.inl (hfamily.symm.trans hop))
    exact hn ((fieldN_eq_of_and hw hall).trans hpat)
  · obtain ⟨hall, hpat⟩ := h8 (hfamily.symm.trans hop)
    exact hpat (fieldN_eq_of_and hw hall ▸ hn)
  · obtain ⟨hall, hpat⟩ := h59 (.inr (hfamily.symm.trans hop))
    exact hn ((fieldN_eq_of_and hw hall).trans hpat)
  · obtain ⟨hall, hpat⟩ := hE (hfamily.symm.trans hop)
    exact hnn (fieldNN_eq_of_and hw hall ▸ hpat)
  · obtain ⟨hall, hpat⟩ := hF (hfamily.symm.trans hop)
    exact hnn (fieldNN_eq_of_and hw hall ▸ hpat)

/-- A word that matches a row decodes, and to an instruction of that row. -/
theorem decodeWord_of_matches {r : OpcodeRow} {w : Word} (hr : r ∈ opcodeTable) (hw : r.matches w = true) :
    ∃ i, decodeWord w = .ok i ∧ i.rowNumber = r.number := by
  obtain ⟨i, hi⟩ := Option.ne_none_iff_exists'.1 fun h =>
    not_illegalFields_of_matches hr hw ((decodeLegal_eq_none_iff w).1 h)
  obtain ⟨q, hq, hnumber, hqw⟩ := encodeFitsRow i
  rw [encode_of_decodeLegal hi] at hqw
  exact ⟨i, decodeWord_eq_ok_iff.2 hi, by rw [← hnumber, row_unique hr hq hw hqw]⟩

theorem decodeWord_of_not_matches {w : Word} (hw : ∀ r ∈ opcodeTable, ¬ r.matches w = true) :
    decodeWord w = .error (.illegalInstruction w) := by
  refine decodeWord_eq_error_iff.2 (Option.eq_none_iff_forall_ne_some.2 fun i hi => ?_)
  obtain ⟨r, hr, -, hrw⟩ := encodeFitsRow i
  exact hw r hr (encode_of_decodeLegal hi ▸ hrw)

end Sys2Proof

namespace Sys2Proof.Claims

theorem mem_rowsMatching {r : OpcodeRow} {w : Word} : r ∈ rowsMatching w ↔ r ∈ opcodeTable ∧ r.matches w = true :=
  List.mem_filter

theorem nodup_opcodeTable : opcodeTable.Nodup := by decide +kernel

/-- Settles O2: the word of an instruction decodes to it (`decodeLegal_encode`), and its two bytes are the word. -/
theorem decodeOfEncodeIsTheInstruction : Obligations.DecodeOfEncodeIsTheInstruction := fun i rest _ =>
  decode_encodeBytes_append i rest (decodeWord_eq_ok_iff.2 (decodeLegal_encode i))

/-- Settles O3: a word is its fields put together, and the row fixes the fields that the instruction does not carry. -/
theorem encodeOfDecodeIsTheWord : Obligations.EncodeOfDecodeIsTheWord := fun _ _ h =>
  encode_of_decodeLegal (decodeWord_eq_ok_iff.1 h)

/-- Settles O4: by the list of matching rows. A matching row decodes, no matching row means illegal, and a list of two rows
would hold one row twice. -/
theorem decoderIsTheOpcodeMap : Obligations.DecoderIsTheOpcodeMap := by
  intro w
  have hmem := fun r => mem_rowsMatching (r := r) (w := w)
  have hnodup : (rowsMatching w).Nodup := nodup_opcodeTable.filter _
  match hrows : rowsMatching w with
  | [] => exact decodeWord_of_not_matches fun r hr hrw => by simpa [hrows] using (hmem r).2 ⟨hr, hrw⟩
  | [r] =>
    obtain ⟨hr, hrw⟩ := (hmem r).1 (by simp [hrows])
    exact decodeWord_of_matches hr hrw
  | r :: q :: rows =>
    obtain ⟨hr, hrw⟩ := (hmem r).1 (by simp [hrows])
    obtain ⟨hq, hqw⟩ := (hmem q).1 (by simp [hrows])
    simp [hrows, row_unique hr hq hrw hqw] at hnodup

/-- Settles O5: the decoder answers none exactly on the fields of R85, family by family. -/
theorem illegalWordsAreTheSixFamilies : Obligations.IllegalWordsAreTheSixFamilies := fun w =>
  decodeWord_eq_error_iff.trans (decodeLegal_eq_none_iff w)

/-- Settles O1: eight words, evaluated. -/
theorem writtenWordsDecode : Obligations.WrittenWordsDecode := by
  unfold Obligations.WrittenWordsDecode
  decide

end Sys2Proof.Claims
end

section
/-! PROOFS. What executing an instruction can do, said once for every instruction: the fault each can raise, and the ways to
complete, with what each writes. The claims about all instructions are case analyses of it. -/

namespace Sys2Proof.Machine

/-- The one cause an instruction can raise, where it can raise any (R241). -/
def faultCause : Instr → Option Cause
  | .ret => some .stackUnderflow
  | .callNnn _ => some .stackOverflow
  | .skpVx _ => some .keyRange
  | .sknpVx _ => some .keyRange
  | .drwVxVyN _ _ _ => some .dataRange
  | .ldBVx _ => some .dataRange
  | .ldIIndVx _ => some .dataRange
  | .ldVxIInd _ => some .dataRange
  | _ => none

/-- What phase X of an instruction can answer from `s`. A constructor names the instruction where only that one can do so;
`pc` may go to a jump target, two further, or back by two, besides a call and a return. -/
inductive Effect (s : State) : Instr → Result → Prop where
  | stop (i : Instr) (hsp : 16 < s.sp.toNat) : Effect s i (.fault .stackPointerOutOfRange)
  | fault {i : Instr} {c : Cause} (hc : faultCause i = some c) : Effect s i (s.raise c i)
  | regs (i : Instr) (v : Vector Byte 16) : Effect s i (.next { s with v := v })
  | index (i : Instr) (w : Word) : Effect s i (.next (s.setI w))
  | skip (i : Instr) : Effect s i (.next s.advance)
  | wait (i : Instr) : Effect s i (.next (s.setPc s.instrAddr))
  | jump (i : Instr) (p : Word) (hp : p.toNat ≤ 0x10FE) : Effect s i (.next (s.setPc p))
  | call (nnn : Addr) (hsp : s.sp.toNat < 16) :
      Effect s (.callNnn nnn) (.next (((s.setSlot s.sp.toNat s.pc).setSp (s.sp + 1)).setPc (addrImm nnn)))
  | ret (target : Word) (hpos : 0 < s.sp.toNat) (hsp : s.sp.toNat ≤ 16) (hslot : s.slot (s.sp.toNat - 1) = some target) :
      Effect s .ret (.next ((s.setSp (s.sp - 1)).setPc target))
  | setDt (x : Reg) : Effect s (.ldDtVx x) (.next (s.setDt (s.reg x)))
  | setSt (x : Reg) : Effect s (.ldStVx x) (.next (s.setSt (s.reg x)))
  | store {i : Instr} (bs : List Byte) (hrange : bs.length = 0 ∨ s.i.toNat + bs.length ≤ 4096)
      (hi : ∃ x, i = .ldBVx x ∨ i = .ldIIndVx x) :
      Effect s i (.next { s with mem := s.mem.writeList s.i.toNat bs })
  | draw {i : Instr} (fb : FrameBuffer) (v : Vector Byte 16) (hi : Instr.notifiesDisplay i = true) :
      Effect s i (.next { s with fb := fb, v := v })

variable (s : State)

theorem State.slot_eq_some (k : Nat) (hk : k < 16) : s.slot k = some s.stack[k] := Vector.getElem?_eq_getElem hk

theorem State.slot_eq_none {k : Nat} (hk : 16 ≤ k) : s.slot k = none := Vector.getElem?_eq_none hk

/-! ### Call and return, by the number of used slots -/

theorem exec_ret_empty (hsp : s.sp.toNat = 0) : exec .ret s = s.raise .stackUnderflow .ret :=
  if_pos (BitVec.eq_of_toNat_eq hsp)

theorem exec_ret_used {target : Word} (hpos : 0 < s.sp.toNat) (hslot : s.slot (s.sp.toNat - 1) = some target) :
    exec .ret s = .next ((s.setSp (s.sp - 1)).setPc target) := by
  have hne : s.sp ≠ 0 := fun h => by rw [h] at hpos; cases hpos
  simp only [exec, execRet, if_neg hne, hslot]

theorem exec_ret_unreachable (hsp : 16 < s.sp.toNat) : exec .ret s = .fault .stackPointerOutOfRange := by
  have hne : s.sp ≠ 0 := fun h => by rw [h] at hsp; cases hsp
  simp only [exec, execRet, if_neg hne, s.slot_eq_none (by omega : 16 ≤ s.sp.toNat - 1)]

theorem exec_callNnn_full (nnn : Addr) (hsp : s.sp.toNat = 16) :
    exec (.callNnn nnn) s = s.raise .stackOverflow (.callNnn nnn) :=
  if_pos (BitVec.eq_of_toNat_eq hsp)

theorem exec_callNnn_free (nnn : Addr) (hsp : s.sp.toNat < 16) : exec (.callNnn nnn) s =
    .next (((s.setSlot s.sp.toNat s.pc).setSp (s.sp + 1)).setPc (addrImm nnn)) := by
  have hne : s.sp ≠ 16 := fun h => by rw [h] at hsp; exact absurd hsp (by decide)
  simp only [exec, execCallNnn, if_neg hne, s.slot_eq_some _ hsp]

theorem exec_callNnn_unreachable (nnn : Addr) (hsp : 16 < s.sp.toNat) :
    exec (.callNnn nnn) s = .fault .stackPointerOutOfRange := by
  have hne : s.sp ≠ 16 := fun h => by rw [h] at hsp; exact absurd hsp (by decide)
  simp only [exec, execCallNnn, if_neg hne, s.slot_eq_none hsp.le]

/-! ### Jump targets (R132, R134) -/

theorem toNat_addrImm_le (nnn : Addr) : (addrImm nnn).toNat ≤ 0x10FE := by
  have hlt : nnn.toNat < 4096 := nnn.isLt
  rw [toNat_addrImm]
  omega

/-- The sum of `Bnnn` needs no reduction to 16 bits. -/
theorem toNat_addrImm_add (nnn : Addr) (b : Byte) : (addrImm nnn + zext16 b).toNat = nnn.toNat + b.toNat := by
  have hn : nnn.toNat < 4096 := nnn.isLt
  have hb : b.toNat < 256 := b.isLt
  have hz : (zext16 b).toNat = b.toNat := BitVec.toNat_setWidth_of_le (by decide)
  rw [BitVec.toNat_add, toNat_addrImm, hz]
  omega

theorem toNat_addrImm_add_le (nnn : Addr) (b : Byte) : (addrImm nnn + zext16 b).toNat ≤ 0x10FE := by
  have hn : nnn.toNat < 4096 := nnn.isLt
  have hb : b.toNat < 256 := b.isLt
  rw [toNat_addrImm_add]
  omega

/-! ### Every instruction has one of the effects -/

theorem effect_ret : Effect s .ret (exec .ret s) := by
  rcases Nat.eq_zero_or_pos s.sp.toNat with hzero | hpos
  · rw [exec_ret_empty s hzero]
    exact .fault rfl
  · by_cases hsp : s.sp.toNat ≤ 16
    · have hslot := s.slot_eq_some (s.sp.toNat - 1) (by omega)
      rw [exec_ret_used s hpos hslot]
      exact .ret _ hpos hsp hslot
    · rw [exec_ret_unreachable s (by omega)]
      exact .stop _ (by omega)

theorem effect_callNnn (nnn : Addr) : Effect s (.callNnn nnn) (exec (.callNnn nnn) s) := by
  rcases Nat.lt_trichotomy s.sp.toNat 16 with hfree | hfull | hsp
  · rw [exec_callNnn_free s nnn hfree]
    exact .call nnn hfree
  · rw [exec_callNnn_full s nnn hfull]
    exact .fault rfl
  · rw [exec_callNnn_unreachable s nnn hsp]
    exact .stop _ hsp

theorem effect_skipIf (i : Instr) (taken : Bool) : Effect s i (.next (s.skipIf taken)) := by
  cases taken
  · exact .regs i s.v
  · exact .skip i

theorem effect_keySkip {i : Instr} (hc : faultCause i = some .keyRange) (n : Nat) (taken : Bool) :
    Effect s i (if n > 15 then s.raise .keyRange i else .next (s.skipIf taken)) := by
  split
  · exact .fault hc
  · exact effect_skipIf s i taken

theorem effect_keyWait (x : Reg) : Effect s (.ldVxK x) (exec (.ldVxK x) s) := by
  show Effect s _ (.next (s.keyWait .firstMatch x))
  unfold State.keyWait
  split
  · split
    · exact .wait _
    · exact .regs _ _
  · contradiction

theorem effect_store {i : Instr} (hi : ∃ x, i = .ldBVx x ∨ i = .ldIIndVx x) (bs : List Byte)
    (hexec : exec i s = match s.storeBlock bs with | some t => .next t | none => s.raise .dataRange i) :
    Effect s i (exec i s) := by
  have hc : faultCause i = some .dataRange := by obtain ⟨x, rfl | rfl⟩ := hi <;> rfl
  rw [hexec, State.storeBlock_eq]
  split
  · next t hstore =>
    split at hstore
    · next hrange => cases hstore; exact .store bs hrange hi
    · cases hstore
  · exact .fault hc

theorem effect_exec (i : Instr) : Effect s i (exec i s) := by
  cases i
  case ret => exact effect_ret s
  case callNnn nnn => exact effect_callNnn s nnn
  case jpNnn nnn => exact .jump _ _ (toNat_addrImm_le nnn)
  case jpV0Nnn nnn => exact .jump _ _ (toNat_addrImm_add_le nnn _)
  case seVxNn | sneVxNn | seVxVy | sneVxVy => exact effect_skipIf s _ _
  case skpVx | sknpVx => exact effect_keySkip s rfl _ _
  case ldVxK x => exact effect_keyWait s x
  case ldINnn | addIVx | ldFVx => exact .index _ _
  case ldDtVx x => exact .setDt x
  case ldStVx x => exact .setSt x
  case ldBVx x => exact effect_store s ⟨x, .inl rfl⟩ _ rfl
  case ldIIndVx x => exact effect_store s ⟨x, .inr rfl⟩ _ rfl
  case ldVxIInd x =>
    simp only [exec, execLdVxIInd]
    split
    · next bs _ =>
      obtain ⟨v, hv⟩ := State.setRegsFrom_eq bs s 0
      rw [hv]
      exact .regs _ v
    · exact .fault rfl
  case cls => exact .draw blankFrame s.v rfl
  case drwVxVyN x y n =>
    simp only [exec, execDrwVxVyN]
    split
    · exact .draw _ _ rfl
    · exact .fault rfl
  all_goals exact .regs _ _

theorem effect_of_exec_eq {s : State} {i : Instr} {r : Result} (h : exec i s = r) : Effect s i r := h ▸ effect_exec s i

theorem cls_or_drw_of_notifiesDisplay {i : Instr} (h : Instr.notifiesDisplay i = true) :
    i = .cls ∨ ∃ x y n, i = .drwVxVyN x y n := by
  cases i <;> cases h
  case cls => exact .inl rfl
  case drwVxVyN x y n => exact .inr ⟨x, y, n, rfl⟩

/-- A running machine is halted by an instruction only where the instruction raises its cause. -/
theorem exec_halts {i : Instr} {s t : State} (hrun : s.Running) (h : exec i s = .next t) (hhalt : t.halted = true) :
    ∃ c, faultCause i = some c ∧ t = s.enterFault c (s.pc - 2) (encode i) := by
  generalize hr : exec i s = r at h
  cases effect_of_exec_eq hr
  case stop => cases h
  case fault c hc => cases h; exact ⟨c, hc, rfl⟩
  all_goals
    cases h
    exact absurd (hrun.symm.trans hhalt) nofun

end Sys2Proof.Machine

namespace Sys2Proof.Claims

open Sys2Proof.Machine

/-- Settles O42: the machine is halted by the instruction's own cause, and only the eight have one. -/
theorem onlyTheNamedInstructionsFault : Obligations.OnlyTheNamedInstructionsFault := by
  intro i s t hrun hexec hhalt
  obtain ⟨c, hc, rfl⟩ := exec_halts hrun hexec hhalt
  cases i <;> cases hc
  case ret => exact .inl ⟨rfl, rfl⟩
  case callNnn nnn => exact .inr (.inl ⟨nnn, rfl, rfl⟩)
  case skpVx x => exact .inr (.inr (.inl ⟨x, .inl rfl, rfl⟩))
  case sknpVx x => exact .inr (.inr (.inl ⟨x, .inr rfl, rfl⟩))
  case drwVxVyN x y n => exact .inr (.inr (.inr ⟨.inr ⟨x, y, n, rfl⟩, rfl⟩))
  case ldBVx x => exact .inr (.inr (.inr ⟨.inl ⟨x, .inl rfl⟩, rfl⟩))
  case ldIIndVx x => exact .inr (.inr (.inr ⟨.inl ⟨x, .inr (.inl rfl)⟩, rfl⟩))
  case ldVxIInd x => exact .inr (.inr (.inr ⟨.inl ⟨x, .inr (.inr rfl)⟩, rfl⟩))

/-- Settles O43: of the effects an instruction can have, only those of the named instructions write the part. -/
theorem onlyTheNamedInstructionsWrite : Obligations.OnlyTheNamedInstructionsWrite := by
  intro i s t hexec
  cases effect_of_exec_eq hexec
  case call nnn _ =>
    exact ⟨fun _ h => absurd rfl (h nnn), fun _ _ => rfl, fun _ _ _ _ => rfl, fun _ => rfl, fun _ => rfl⟩
  case ret => exact ⟨fun h => absurd rfl h, fun _ _ => rfl, fun _ _ _ _ => rfl, fun _ => rfl, fun _ => rfl⟩
  case setDt x =>
    exact ⟨fun _ _ => ⟨rfl, fun _ => rfl⟩, fun _ _ => rfl, fun _ _ _ _ => rfl, fun h => absurd rfl (h x), fun _ => rfl⟩
  case setSt x =>
    exact ⟨fun _ _ => ⟨rfl, fun _ => rfl⟩, fun _ _ => rfl, fun _ _ _ _ => rfl, fun _ => rfl, fun h => absurd rfl (h x)⟩
  case store bs hrange hi =>
    obtain ⟨x, hi⟩ := hi
    exact ⟨fun _ _ => ⟨rfl, fun _ => rfl⟩, fun h => absurd hi (not_or.2 (h x)), fun _ _ _ _ => rfl, fun _ => rfl,
      fun _ => rfl⟩
  case draw fb v hi =>
    refine ⟨fun _ _ => ⟨rfl, fun _ => rfl⟩, fun _ _ => rfl, fun hcls hdrw => ?_, fun _ => rfl, fun _ => rfl⟩
    obtain rfl | ⟨x, y, n, rfl⟩ := cls_or_drw_of_notifiesDisplay hi
    · exact absurd rfl hcls
    · exact absurd rfl (hdrw x y n)
  all_goals
    exact ⟨fun _ _ => ⟨rfl, fun _ => rfl⟩, fun _ _ => rfl, fun _ _ _ _ => rfl, fun _ => rfl, fun _ => rfl⟩

end Sys2Proof.Claims
end

section
/-! PROOFS. The tick by its four outcomes (spec/40_tick_cycle.md R111), the two invariants over a tick, and the runs of events
from reset. -/

namespace Sys2Proof.Machine

variable {s t : State}

/-! ### The four outcomes of a tick -/

theorem step_of_halted (h : s.halted = true) : step s = .next s.beginTick :=
  if_pos (s.beginTick_halted.trans h)

theorem step_of_no_fetch (hrun : s.Running) (hf : s.fetchWord = none) :
    step s = .next s.beginTick.timerPhase.fetchFault := by
  rw [← s.fetchWord_beginTick] at hf
  simp only [step, runTick, s.beginTick_halted, hrun, hf, Bool.false_eq_true, if_false]

theorem step_of_illegal {w : Word} (hrun : s.Running) (hf : s.fetchWord = some w)
    (hd : decodeWord w = .error (.illegalInstruction w)) : step s = .next (s.beginTick.timerPhase.illegalFault w) := by
  rw [← s.fetchWord_beginTick] at hf
  simp only [step, runTick, s.beginTick_halted, hrun, hf, hd, Bool.false_eq_true, if_false]

theorem step_of_decodes {w : Word} {i : Instr} (hrun : s.Running) (hf : s.fetchWord = some w) (hd : decodeWord w = .ok i) :
    step s = exec i s.beginTick.timerPhase.advance := by
  rw [← s.fetchWord_beginTick] at hf
  simp only [step, runTick, s.beginTick_halted, hrun, hf, hd, Bool.false_eq_true, if_false]

theorem decodeWord_cases (w : Word) : decodeWord w = .error (.illegalInstruction w) ∨ ∃ i, decodeWord w = .ok i := by
  cases h : decodeLegal w with
  | none => exact .inl (decodeWord_eq_error_iff.2 h)
  | some i => exact .inr ⟨i, decodeWord_eq_ok_iff.2 h⟩

theorem fetchWord_eq_none_iff : s.fetchWord = none ↔ s.pc.toNat > 0xFFE := by
  simp [State.fetchWord]

theorem pc_le_of_fetchWord_eq_some {w : Word} (h : s.fetchWord = some w) : s.pc.toNat ≤ 0xFFE := by
  by_contra hgt
  rw [fetchWord_eq_none_iff.2 (not_le.1 hgt)] at h
  cases h

/-! ### The invariant: memory, stack pointer, status registers -/

/-- A running state keeps the invariant when the status registers stay and memory and `SP` stay in their bounds. -/
theorem inv_of_running (hinv : s.Inv) (hrun : s.Running) (hmem : t.mem.wf = true) (hsp : t.sp.toNat ≤ 16)
    (hhalted : t.halted = s.halted) (hcause : t.cause = s.cause) (hfaultPc : t.faultPc = s.faultPc)
    (hfaultWord : t.faultWord = s.faultWord) : t.Inv := by
  obtain ⟨-, -, hzero, -⟩ := hinv
  refine ⟨hmem, hsp, fun _ => ?_, fun h => absurd ((hhalted.trans hrun).symm.trans h) nofun⟩
  rw [hcause, hfaultPc, hfaultWord]
  exact hzero hrun

theorem inv_enterFault {c : Cause} {a w : Word} (hmem : s.mem.wf = true) (hsp : s.sp.toNat ≤ 16) (hc : c ≠ .none)
    (hstarted : s.started = true) (hw : c = .fetchRange → w = 0) : (s.enterFault c a w).Inv :=
  ⟨hmem, hsp, nofun, fun _ => ⟨hc, hstarted, rfl, hw⟩⟩

theorem inv_beginTick (hinv : s.Inv) : s.beginTick.Inv := by
  obtain ⟨hmem, hsp, hzero, hhalt⟩ := hinv
  refine ⟨s.beginTick_mem ▸ hmem, s.beginTick_sp ▸ hsp, ?_, ?_⟩
  · simpa using hzero
  · intro h
    obtain ⟨hcause, -, hpc, hword⟩ := hhalt (s.beginTick_halted ▸ h)
    simpa [hpc] using ⟨hcause, hword⟩

theorem faultCause_ne {i : Instr} {c : Cause} (h : faultCause i = some c) : c ≠ .none ∧ c ≠ .fetchRange := by
  cases i <;> cases h <;> exact ⟨nofun, nofun⟩

theorem toNat_sp_add_one (h : s.sp.toNat < 16) : (s.sp + 1).toNat = s.sp.toNat + 1 :=
  BitVec.toNat_add_of_lt (show s.sp.toNat + 1 < 2 ^ 5 by omega)

theorem toNat_sp_sub_one (h : 0 < s.sp.toNat) : (s.sp - 1).toNat = s.sp.toNat - 1 :=
  BitVec.toNat_sub_of_le (BitVec.le_def.2 h)

theorem wf_store {bs : List Byte} (hmem : s.mem.wf = true) (hrange : bs.length = 0 ∨ s.i.toNat + bs.length ≤ 4096) :
    (s.mem.writeList s.i.toNat bs).wf = true :=
  Memory.wf_writeList bs (hrange.imp_left List.length_eq_zero_iff.1) hmem

/-- Phase X of a running machine keeps the invariant. -/
theorem inv_exec {i : Instr} (hinv : s.Inv) (hrun : s.Running) (hstarted : s.started = true)
    (hexec : exec i s = .next t) : t.Inv := by
  obtain ⟨hmem, hsp, -⟩ := id hinv
  cases effect_of_exec_eq hexec
  case fault c hc => exact inv_enterFault hmem hsp (faultCause_ne hc).1 hstarted fun h => absurd h (faultCause_ne hc).2
  case call nnn hfree =>
    exact inv_of_running hinv hrun hmem ((toNat_sp_add_one hfree).trans_le hfree) rfl rfl rfl rfl
  case ret target hpos _ _ =>
    exact inv_of_running hinv hrun hmem ((toNat_sp_sub_one hpos).trans_le (by omega)) rfl rfl rfl rfl
  case store bs hrange _ => exact inv_of_running hinv hrun (wf_store hmem hrange) hsp rfl rfl rfl rfl
  all_goals exact inv_of_running hinv hrun hmem hsp rfl rfl rfl rfl

theorem inv_step (hinv : s.Inv) (hstep : step s = .next t) : t.Inv := by
  have hbegin := inv_beginTick hinv
  obtain ⟨hmem, hsp, -⟩ := id hbegin
  obtain ⟨-, rfl⟩ | ⟨-, -, rfl⟩ | ⟨-, w, -, -, rfl⟩ | ⟨hrun, w, i, -, -, hexec⟩ := step_cases hstep
  · exact hbegin
  · exact inv_enterFault hmem hsp nofun rfl fun _ => rfl
  · exact inv_enterFault hmem hsp nofun rfl nofun
  · have hrun' : s.beginTick.Running := s.beginTick_halted.trans hrun
    have hinv' : s.beginTick.timerPhase.advance.Inv := inv_of_running hbegin hrun' hmem hsp rfl rfl rfl rfl
    exact inv_exec hinv' hrun' rfl hexec

/-! ### Totality -/

theorem exec_total (i : Instr) (hsp : s.sp.toNat ≤ 16) : ∃ t, exec i s = .next t := by
  generalize hr : exec i s = r
  cases effect_of_exec_eq hr
  case stop h => omega
  all_goals exact ⟨_, rfl⟩

theorem step_total (hinv : s.Inv) : ∃ t, step s = .next t := by
  obtain ⟨-, hsp, -⟩ := hinv
  by_cases hhalt : s.halted = true
  · exact ⟨_, step_of_halted hhalt⟩
  · have hrun : s.Running := Bool.eq_false_iff.2 hhalt
    cases hf : s.fetchWord with
    | none => exact ⟨_, step_of_no_fetch hrun hf⟩
    | some w =>
      obtain hd | ⟨i, hd⟩ := decodeWord_cases w
      · exact ⟨_, step_of_illegal hrun hf hd⟩
      · rw [step_of_decodes hrun hf hd]
        exact exec_total i (s.beginTick_sp ▸ hsp)

/-! ### The bound of `PC` (R22) -/

theorem toNat_add_two {p : Word} (h : p.toNat ≤ 0x1000) : (p + 2).toNat = p.toNat + 2 :=
  BitVec.toNat_add_of_lt (show p.toNat + 2 < 2 ^ 16 by omega)

theorem toNat_sub_two {p : Word} (h : 2 ≤ p.toNat) : (p - 2).toNat = p.toNat - 2 :=
  BitVec.toNat_sub_of_le (BitVec.le_def.2 h)

theorem toNat_slot_le {k : Nat} {w : Word} (hstack : ∀ k : Fin 16, (s.stack[k]).toNat ≤ 0x1000) (h : s.slot k = some w) :
    w.toNat ≤ 0x1000 := by
  obtain ⟨hk, rfl⟩ := Vector.getElem?_eq_some_iff.1 h
  exact hstack ⟨k, hk⟩

theorem toNat_setSlot_le {j : Nat} {w : Word} (hstack : ∀ k : Fin 16, (s.stack[k]).toNat ≤ 0x1000)
    (hw : w.toNat ≤ 0x1000) (k : Fin 16) : ((s.setSlot j w).stack[k]).toNat ≤ 0x1000 := by
  simp only [State.setSlot_stack, Fin.getElem_fin, Vector.getElem_setIfInBounds]
  split
  · exact hw
  · exact hstack k

/-- Phase X starts with `PC` at most 0x1000, since the fetch is possible up to 0xFFE only. -/
theorem pcBounded_exec {i : Instr} (hlow : 2 ≤ s.pc.toNat) (hhigh : s.pc.toNat ≤ 0x1000)
    (hstack : ∀ k : Fin 16, (s.stack[k]).toNat ≤ 0x1000) (hexec : exec i s = .next t) : t.PcBounded := by
  have hback : (s.pc - 2).toNat ≤ 0x10FE := by rw [toNat_sub_two hlow]; omega
  cases effect_of_exec_eq hexec
  case fault => exact ⟨hback, hstack⟩
  case wait => exact ⟨hback, hstack⟩
  case skip => exact ⟨(toNat_add_two hhigh).trans_le (by omega), hstack⟩
  case jump p hp => exact ⟨hp, hstack⟩
  case call nnn hfree => exact ⟨toNat_addrImm_le nnn, toNat_setSlot_le hstack hhigh⟩
  case ret target _ _ hslot => exact ⟨(toNat_slot_le hstack hslot).trans (by decide), hstack⟩
  all_goals exact ⟨hhigh.trans (by decide), hstack⟩

theorem pcBounded_step (hbound : s.PcBounded) (hstep : step s = .next t) : t.PcBounded := by
  have hbegin : s.beginTick.PcBounded := by simpa [State.PcBounded] using hbound
  obtain ⟨-, rfl⟩ | ⟨-, -, rfl⟩ | ⟨-, w, -, -, rfl⟩ | ⟨-, w, i, hf, -, hexec⟩ := step_cases hstep
  · exact hbegin
  · exact hbegin
  · exact hbegin
  · have hpc := pc_le_of_fetchWord_eq_some hf
    have hadv : s.beginTick.timerPhase.advance.pc.toNat = s.beginTick.timerPhase.pc.toNat + 2 :=
      toNat_add_two (hpc.trans (by decide))
    exact pcBounded_exec (s := s.beginTick.timerPhase.advance) (by omega) (by omega) hbegin.2 hexec

/-! ### Events and runs -/

theorem inv_load (bytes : List Byte) (hinv : s.Inv) : (s.load bytes).Inv := by
  unfold State.load
  split
  · exact hinv
  · obtain ⟨hmem, hrest⟩ := hinv
    have hlen : (bytes.take Config.progCap).length ≤ Config.progCap := List.length_take_le _ _
    exact ⟨Memory.wf_writeList _ (.inr (Nat.add_le_add_left hlen Config.progBase)) hmem, hrest⟩

theorem pcBounded_load (bytes : List Byte) (hbound : s.PcBounded) : (s.load bytes).PcBounded := by
  unfold State.load
  split <;> exact hbound

theorem inv_reset : State.reset.Inv :=
  ⟨Memory.wf_reset, by decide, fun _ => ⟨rfl, rfl, rfl⟩, nofun⟩

theorem pcBounded_reset : State.reset.PcBounded := by
  refine ⟨by decide, fun k => ?_⟩
  simp [State.reset]

/-- Each event answers a next state and keeps both invariants. -/
theorem onEvent_answers (e : Event) (hinv : s.Inv) (hbound : s.PcBounded) :
    ∃ t, onEvent s e = .next t ∧ t.Inv ∧ t.PcBounded := by
  cases e with
  | reset => exact ⟨_, rfl, inv_reset, pcBounded_reset⟩
  | load bytes => exact ⟨_, rfl, inv_load bytes hinv, pcBounded_load bytes hbound⟩
  | tick keys rand =>
    have hinv' : (s.present ⟨keys, rand⟩).Inv := hinv
    have hbound' : (s.present ⟨keys, rand⟩).PcBounded := hbound
    obtain ⟨t, ht⟩ := step_total hinv'
    exact ⟨t, ht, inv_step hinv' ht, pcBounded_step hbound' ht⟩

theorem runEvents_answers : ∀ (es : List Event) {s : State}, s.Inv → s.PcBounded →
    ∃ t, runEvents s es = .next t ∧ t.Inv ∧ t.PcBounded
  | [], s, hinv, hbound => ⟨s, rfl, hinv, hbound⟩
  | e :: es, _, hinv, hbound => by
    obtain ⟨u, hu, hinv', hbound'⟩ := onEvent_answers e hinv hbound
    simpa only [runEvents, hu] using runEvents_answers es hinv' hbound'

end Sys2Proof.Machine

namespace Sys2Proof.Claims

open Sys2Proof.Machine

/-- Settles O46: the tick's outcomes are faults, whose entry sets registers that agree, and phase X, each effect of which
keeps memory canonical and `SP` at most 16. -/
theorem stepKeepsTheInvariant : Obligations.StepKeepsTheInvariant := fun _ _ hinv hstep => inv_step hinv hstep

/-- Settles O47: only `SP` above 16 stops an instruction. -/
theorem tickIsTotal : Obligations.TickIsTotal := fun _ hinv => step_total hinv

/-- Settles O48: `PC` is at most 0x1000 when phase X starts, and each effect stays in the bound from there. -/
theorem stepKeepsThePcBound : Obligations.StepKeepsThePcBound := fun _ _ hbound hstep => pcBounded_step hbound hstep

/-- Settles O45: the reset memory is empty, the registers are 0, and `PC` is 0x200. -/
theorem resetMeetsTheInvariants : Obligations.ResetMeetsTheInvariants := ⟨inv_reset, pcBounded_reset⟩

/-- Settles O49: by induction over the events, each of which keeps both invariants. -/
theorem everyRunFromResetAnswers : Obligations.EveryRunFromResetAnswers := fun events =>
  runEvents_answers events inv_reset pcBounded_reset

end Sys2Proof.Claims
end

section
/-! PROOFS. The frame rules: how `FrameBut` composes, and what each write of one part of the state leaves unchanged. -/

namespace Sys2Proof.Claims

open Sys2Proof.Machine

variable {parts parts' : List Part} {regs regs' : List Reg} {s t u : State}

theorem frameBut_refl (parts : List Part) (regs : List Reg) (s : State) : FrameBut parts regs s s :=
  ⟨fun _ _ => rfl, fun _ => rfl, fun _ => rfl, fun _ => rfl, fun _ _ => rfl, fun _ => rfl, fun _ => rfl, fun _ _ => rfl,
    fun _ _ _ => rfl, fun _ => ⟨rfl, rfl, rfl, rfl⟩, rfl, rfl, rfl, rfl, rfl⟩

theorem FrameBut.trans (hst : FrameBut parts regs s t) (htu : FrameBut parts regs t u) : FrameBut parts regs s u := by
  obtain ⟨hreg, hpc, hi, hsp, hstack, hdt, hst, hmem, hfb, hfault, hstarted, hkeys, hrand, hinputs, htickNo⟩ := hst
  obtain ⟨hreg', hpc', hi', hsp', hstack', hdt', hst', hmem', hfb', hfault', hstarted', hkeys', hrand', hinputs', htickNo'⟩ :=
    htu
  refine ⟨fun r h => (hreg' r h).trans (hreg r h), fun h => (hpc' h).trans (hpc h), fun h => (hi' h).trans (hi h),
    fun h => (hsp' h).trans (hsp h), fun h k => (hstack' h k).trans (hstack h k), fun h => (hdt' h).trans (hdt h),
    fun h => (hst' h).trans (hst h), fun h a => (hmem' h a).trans (hmem h a), fun h y x => (hfb' h y x).trans (hfb h y x),
    fun h => ?_, hstarted'.trans hstarted, hkeys'.trans hkeys, hrand'.trans hrand, hinputs'.trans hinputs,
    htickNo'.trans htickNo⟩
  obtain ⟨hhalted, hcause, hfaultPc, hfaultWord⟩ := hfault h
  obtain ⟨hhalted', hcause', hfaultPc', hfaultWord'⟩ := hfault' h
  exact ⟨hhalted'.trans hhalted, hcause'.trans hcause, hfaultPc'.trans hfaultPc, hfaultWord'.trans hfaultWord⟩

theorem FrameBut.mono (h : FrameBut parts regs s t) (hparts : parts ⊆ parts') (hregs : regs ⊆ regs') :
    FrameBut parts' regs' s t := by
  obtain ⟨hreg, hpc, hi, hsp, hstack, hdt, hst, hmem, hfb, hfault, hrest⟩ := h
  exact ⟨fun r h => hreg r fun h' => h (hregs h'), fun h => hpc fun h' => h (hparts h'), fun h => hi fun h' => h (hparts h'),
    fun h => hsp fun h' => h (hparts h'), fun h => hstack fun h' => h (hparts h'), fun h => hdt fun h' => h (hparts h'),
    fun h => hst fun h' => h (hparts h'), fun h => hmem fun h' => h (hparts h'), fun h => hfb fun h' => h (hparts h'),
    fun h => hfault fun h' => h (hparts h'), hrest⟩

theorem frameBut_setSp (s : State) (n : BitVec 5) : FrameBut [.sp] [] s (s.setSp n) :=
  ⟨fun _ _ => rfl, fun _ => rfl, fun _ => rfl, fun h => absurd (List.mem_singleton_self _) h, fun _ _ => rfl, fun _ => rfl,
    fun _ => rfl, fun _ _ => rfl, fun _ _ _ => rfl, fun _ => ⟨rfl, rfl, rfl, rfl⟩, rfl, rfl, rfl, rfl, rfl⟩

theorem frameBut_setSlot (s : State) (k : Nat) (w : Word) : FrameBut [.stack] [] s (s.setSlot k w) :=
  ⟨fun _ _ => rfl, fun _ => rfl, fun _ => rfl, fun _ => rfl, fun h => absurd (List.mem_singleton_self _) h, fun _ => rfl,
    fun _ => rfl, fun _ _ => rfl, fun _ _ _ => rfl, fun _ => ⟨rfl, rfl, rfl, rfl⟩, rfl, rfl, rfl, rfl, rfl⟩

theorem frameBut_setDt (s : State) (b : Byte) : FrameBut [.dt] [] s (s.setDt b) :=
  ⟨fun _ _ => rfl, fun _ => rfl, fun _ => rfl, fun _ => rfl, fun _ _ => rfl, fun h => absurd (List.mem_singleton_self _) h,
    fun _ => rfl, fun _ _ => rfl, fun _ _ _ => rfl, fun _ => ⟨rfl, rfl, rfl, rfl⟩, rfl, rfl, rfl, rfl, rfl⟩

theorem frameBut_setSt (s : State) (b : Byte) : FrameBut [.st] [] s (s.setSt b) :=
  ⟨fun _ _ => rfl, fun _ => rfl, fun _ => rfl, fun _ => rfl, fun _ _ => rfl, fun _ => rfl,
    fun h => absurd (List.mem_singleton_self _) h, fun _ _ => rfl, fun _ _ _ => rfl, fun _ => ⟨rfl, rfl, rfl, rfl⟩, rfl,
    rfl, rfl, rfl, rfl⟩

theorem frameBut_setMem (s : State) (m : Memory) : FrameBut [.mem] [] s { s with mem := m } :=
  ⟨fun _ _ => rfl, fun _ => rfl, fun _ => rfl, fun _ => rfl, fun _ _ => rfl, fun _ => rfl, fun _ => rfl,
    fun h => absurd (List.mem_singleton_self _) h, fun _ _ _ => rfl, fun _ => ⟨rfl, rfl, rfl, rfl⟩, rfl, rfl, rfl, rfl, rfl⟩

theorem frameBut_setFb (s : State) (fb : FrameBuffer) : FrameBut [.fb] [] s (s.setFb fb) :=
  ⟨fun _ _ => rfl, fun _ => rfl, fun _ => rfl, fun _ => rfl, fun _ _ => rfl, fun _ => rfl, fun _ => rfl, fun _ _ => rfl,
    fun h => absurd (List.mem_singleton_self _) h, fun _ => ⟨rfl, rfl, rfl, rfl⟩, rfl, rfl, rfl, rfl, rfl⟩

theorem frameBut_enterFault (s : State) (c : Cause) (a w : Word) : FrameBut [.pc, .fault] [] s (s.enterFault c a w) :=
  ⟨fun _ _ => rfl, fun h => absurd (List.mem_cons_self ..) h, fun _ => rfl, fun _ => rfl, fun _ _ => rfl, fun _ => rfl,
    fun _ => rfl, fun _ _ => rfl, fun _ _ _ => rfl,
    fun h => absurd (List.mem_cons_of_mem _ (List.mem_singleton_self _)) h, rfl, rfl, rfl, rfl, rfl⟩

theorem raises_of_exec_eq_raise {c : Cause} {i : Instr} (h : exec i s = s.raise c i) : Raises c i s :=
  ⟨s.enterFault c (s.pc - 2) (encode i), h.trans (s.raise_eq c i), rfl, rfl, rfl, rfl, rfl, frameBut_enterFault s ..⟩

end Sys2Proof.Claims
end

section
/-! PROOFS. The flag-writing ALU forms (spec/42_load_alu.md R151): two writes, of which the later remains where `x = 0xF`. -/

namespace Sys2Proof.Machine

variable (s : State) (x y : Reg)

theorem exec_addVxVy : exec (.addVxVy x y) s =
    .next (s.writeResultThenFlag x (addResult (s.reg x) (s.reg y)) (addCarry (s.reg x) (s.reg y))) := rfl
theorem exec_subVxVy : exec (.subVxVy x y) s =
    .next (s.writeFlagThenResult x (subIndicator (s.reg x) (s.reg y)) (subResult (s.reg x) (s.reg y))) := rfl
theorem exec_shrVxVy : exec (.shrVxVy x y) s =
    .next (s.writeFlagThenResult x (shrOut (s.reg y)) (shrResult (s.reg y))) := rfl
theorem exec_subnVxVy : exec (.subnVxVy x y) s =
    .next (s.writeFlagThenResult x (subIndicator (s.reg y) (s.reg x)) (subResult (s.reg y) (s.reg x))) := rfl
theorem exec_shlVxVy : exec (.shlVxVy x y) s =
    .next (s.writeFlagThenResult x (shlOut (s.reg y)) (shlResult (s.reg y))) := rfl

/-! ### Results and flags as numbers (R150) -/

theorem toNat_subResult (a b : Byte) : (subResult a b).toNat = (a.toNat + 256 - b.toNat) % 256 := BitVec.toNat_ofNat _ 8

theorem toNat_shrResult (a : Byte) : (shrResult a).toNat = a.toNat / 2 := by
  have ha : a.toNat < 256 := a.isLt
  rw [shrResult, BitVec.toNat_ofNat, Nat.mod_eq_of_lt (by omega)]

theorem toNat_shlResult (a : Byte) : (shlResult a).toNat = a.toNat * 2 % 256 := BitVec.toNat_ofNat _ 8

theorem shrOut_iff (a : Byte) : shrOut a = true ↔ a.toNat % 2 = 1 := by
  simp [shrOut, BitVec.getLsbD, Nat.testBit_zero]

theorem shlOut_iff (a : Byte) : shlOut a = true ↔ a.toNat ≥ 128 := by
  have ha : a.toNat < 256 := a.isLt
  simp only [shlOut, BitVec.getLsbD, Nat.testBit_eq_decide_div_mod_eq, decide_eq_true_eq]
  omega

theorem flagByte_eq_ite {f : Bool} {c : Prop} [Decidable c] (hf : f = true ↔ c) : flagByte f = if c then 1 else 0 :=
  if_congr hf rfl rfl

theorem reg_flag_writeResultThenFlag (r : Byte) (f : Bool) : (s.writeResultThenFlag x r f).reg flagReg = flagByte f :=
  State.reg_setReg_same _ _ _

theorem reg_writeResultThenFlag {x : Reg} (hx : x ≠ flagReg) (r : Byte) (f : Bool) :
    (s.writeResultThenFlag x r f).reg x = r := by
  rw [State.writeResultThenFlag, State.reg_setFlag, if_neg hx, State.reg_setReg_same]

theorem reg_writeFlagThenResult (f : Bool) (r : Byte) : (s.writeFlagThenResult x f r).reg x = r :=
  State.reg_setReg_same _ _ _

theorem reg_flag_writeFlagThenResult {x : Reg} (hx : x ≠ flagReg) (f : Bool) (r : Byte) :
    (s.writeFlagThenResult x f r).reg flagReg = flagByte f := by
  rw [State.writeFlagThenResult, State.reg_setReg_other _ _ hx.symm, State.reg_setFlag, if_pos rfl]

end Sys2Proof.Machine

namespace Sys2Proof.Claims

open Sys2Proof.Machine

variable {i : Instr} {s : State} {x : Reg} {r : Byte} {f : Bool} {n : Nat} {c : Prop} [Decidable c]

theorem frameBut_two_setReg (s : State) (x q : Reg) (b d : Byte) : FrameBut [] [x, q] s ((s.setReg x b).setReg q d) :=
  (frameBut_setReg s b (List.mem_cons_self ..)).trans
    (frameBut_setReg _ d (List.mem_cons_of_mem x (List.mem_singleton_self q)))

/-- The write order of `8xy4`: the flag is always the rule's, the result where `x` is not the flag register. -/
theorem answers_resultThenFlag (hexec : exec i s = .next (s.writeResultThenFlag x r f)) (hr : r.toNat = n)
    (hf : f = true ↔ c) : Answers i s fun t =>
      t.reg 0xF = (if c then 1 else 0) ∧ (x ≠ 0xF → (t.reg x).toNat = n) ∧ FrameBut [] [x, 0xF] s t := by
  refine ⟨_, hexec, ?_, fun hx => ?_, frameBut_two_setReg s x flagReg r (flagByte f)⟩
  · rw [reg_flag_writeResultThenFlag, flagByte_eq_ite hf]
  · rw [reg_writeResultThenFlag s hx, hr]

/-- The write order of the other four: the result is always the rule's, the flag where `x` is not the flag register. -/
theorem answers_flagThenResult (hexec : exec i s = .next (s.writeFlagThenResult x f r)) (hr : r.toNat = n)
    (hf : f = true ↔ c) : Answers i s fun t =>
      (t.reg x).toNat = n ∧ (x ≠ 0xF → t.reg 0xF = (if c then 1 else 0)) ∧ FrameBut [] [x, 0xF] s t := by
  refine ⟨_, hexec, ?_, fun hx => ?_, (frameBut_two_setReg s flagReg x (flagByte f) r).mono (List.Subset.refl _) ?_⟩
  · rw [reg_writeFlagThenResult, hr]
  · rw [reg_flag_writeFlagThenResult s hx, flagByte_eq_ite hf]
  · exact (List.Perm.swap x flagReg []).subset

/-- Settles O7: each of the five writes a result and a flag in the order of R151, and both are the rule's numbers. -/
theorem flagArithmeticWritesResultAndFlag : Obligations.FlagArithmeticWritesResultAndFlag := fun s x y =>
  ⟨answers_resultThenFlag (exec_addVxVy s x y) (toNat_addResult _ _) decide_eq_true_iff,
    answers_flagThenResult (exec_subVxVy s x y) (toNat_subResult _ _) decide_eq_true_iff,
    answers_flagThenResult (exec_shrVxVy s x y) (toNat_shrResult _) (shrOut_iff _),
    answers_flagThenResult (exec_subnVxVy s x y) (toNat_subResult _ _) decide_eq_true_iff,
    answers_flagThenResult (exec_shlVxVy s x y) (toNat_shlResult _) (shlOut_iff _)⟩

end Sys2Proof.Claims
end

section
/-! PROOFS. Control transfer (spec/41_control_flow.md): jumps, calls and returns, and their faults. -/

namespace Sys2Proof.Machine

variable (s : State)

theorem exec_jpNnn (nnn : Addr) : exec (.jpNnn nnn) s = .next (s.setPc (addrImm nnn)) := rfl

theorem exec_jpV0Nnn (nnn : Addr) : exec (.jpV0Nnn nnn) s = .next (s.setPc (addrImm nnn + zext16 (s.reg 0))) := rfl

theorem slot_setSlot_same {k : Nat} (hk : k < 16) (w : Word) : (s.setSlot k w).slot k = some w := by
  simp [State.slot, hk]

theorem slot_setSlot_other {j k : Nat} (h : j ≠ k) (w : Word) : (s.setSlot k w).slot j = s.slot j := by
  simp [State.slot, h.symm]

end Sys2Proof.Machine

namespace Sys2Proof.Claims

open Sys2Proof.Machine

theorem answers_of_exec_eq_setPc {i : Instr} {s : State} {p : Word} {n : Nat} (hexec : exec i s = .next (s.setPc p))
    (hp : p.toNat = n) : Answers i s fun t => t.pc.toNat = n ∧ FrameBut [.pc] [] s t :=
  ⟨s.setPc p, hexec, hp, frameBut_setPc s p⟩

theorem frameBut_call (s : State) (k : Nat) (w : Word) (n : BitVec 5) (p : Word) :
    FrameBut [.pc, .sp, .stack] [] s (((s.setSlot k w).setSp n).setPc p) :=
  (((frameBut_setSlot s k w).mono (by simp) (List.Subset.refl _)).trans
    ((frameBut_setSp _ n).mono (by simp) (List.Subset.refl _))).trans
    ((frameBut_setPc _ p).mono (by simp) (List.Subset.refl _))

theorem frameBut_return (s : State) (n : BitVec 5) (p : Word) : FrameBut [.pc, .sp] [] s ((s.setSp n).setPc p) :=
  ((frameBut_setSp s n).mono (by simp) (List.Subset.refl _)).trans
    ((frameBut_setPc _ p).mono (by simp) (List.Subset.refl _))

/-- Settles O8: the target is zero-extended. -/
theorem jumpTakesItsTarget : Obligations.JumpTakesItsTarget := fun s nnn =>
  answers_of_exec_eq_setPc (exec_jpNnn s nnn) (toNat_addrImm nnn)

/-- Settles O9: the sum of 12 and 8 bits fits the 16 of `PC`. -/
theorem indexedJumpAddsV0 : Obligations.IndexedJumpAddsV0 := fun s nnn =>
  answers_of_exec_eq_setPc (exec_jpV0Nnn s nnn) (toNat_addrImm_add nnn (s.reg 0))

/-- Settles O11: a call writes the slot at `SP` and counts it; a return reads the slot below `SP` and writes none. -/
theorem callPushesAndReturnPops : Obligations.CallPushesAndReturnPops := by
  refine fun s nnn => ⟨fun hfree => ⟨_, exec_callNnn_free s nnn hfree, ?_⟩, fun hpos hsp => ?_⟩
  · exact ⟨slot_setSlot_same s hfree s.pc, fun k hk => slot_setSlot_other s hk s.pc, toNat_sp_add_one hfree,
      toNat_addrImm nnn, frameBut_call ..⟩
  · have hslot := s.slot_eq_some (s.sp.toNat - 1) (by omega)
    refine ⟨_, exec_ret_used s hpos hslot, hslot, ?_, frameBut_return ..⟩
    show (s.sp - 1).toNat + 1 = s.sp.toNat
    rw [toNat_sp_sub_one hpos]
    omega

/-- Settles O12: both tests are made before anything is written. -/
theorem fullAndEmptyStackFault : Obligations.FullAndEmptyStackFault := fun s nnn =>
  ⟨fun hfull => raises_of_exec_eq_raise (exec_callNnn_full s nnn hfull),
    fun hempty => raises_of_exec_eq_raise (exec_ret_empty s hempty)⟩

/-- Settles O13: there is no slot at `SP` nor below it. -/
theorem unreachableStackPointerStops : Obligations.UnreachableStackPointerStops := fun s nnn hsp =>
  ⟨exec_callNnn_unreachable s nnn hsp, exec_ret_unreachable s hsp⟩

/-- Settles O14: the slot that the return reads is the one the call wrote, since `SP` is what the call left. -/
theorem returnResumesAfterTheCall : Obligations.ReturnResumesAfterTheCall := by
  intro s nnn hfree
  refine ⟨_, exec_callNnn_free s nnn hfree, fun t' hsp hslot => ?_⟩
  replace hsp : t'.sp = s.sp + 1 := hsp
  replace hslot : t'.slot s.sp.toNat = some s.pc := hslot.trans (slot_setSlot_same s hfree s.pc)
  have hcount : t'.sp.toNat = s.sp.toNat + 1 := hsp ▸ toNat_sp_add_one hfree
  have hpop : t'.slot (t'.sp.toNat - 1) = some s.pc := by rw [hcount, Nat.add_sub_cancel, hslot]
  refine ⟨_, exec_ret_used t' (by omega) hpop, rfl, ?_⟩
  show t'.sp - 1 = s.sp
  rw [hsp, BitVec.add_sub_cancel]

end Sys2Proof.Claims
end

section
/-! PROOFS. The 16-bit index sum (spec/43_index_memory.md R182) and the timer registers (spec/44_random_keys_timers.md). -/

namespace Sys2Proof.Machine

variable (s : State) (x : Reg)

theorem exec_addIVx : exec (.addIVx x) s = .next (s.setI (s.i + zext16 (s.reg x))) := rfl
theorem exec_ldVxDt : exec (.ldVxDt x) s = .next (s.setReg x s.dt) := rfl
theorem exec_ldDtVx : exec (.ldDtVx x) s = .next (s.setDt (s.reg x)) := rfl
theorem exec_ldStVx : exec (.ldStVx x) s = .next (s.setSt (s.reg x)) := rfl

theorem toNat_add_zext16 (w : Word) (b : Byte) : (w + zext16 b).toNat = (w.toNat + b.toNat) % 65536 := by
  rw [BitVec.toNat_add, zext16, BitVec.toNat_setWidth_of_le (by decide)]

end Sys2Proof.Machine

namespace Sys2Proof.Claims

open Sys2Proof.Machine

/-- Settles O16: one write of `I`, the sum reduced to its 16 bits. -/
theorem indexAddIsSixteenBit : Obligations.IndexAddIsSixteenBit := fun s x =>
  answers_of_exec_eq_setI (exec_addIVx s x) (toNat_add_zext16 s.i (s.reg x))

/-- Settles O24: each is one write, of a register or of a timer. -/
theorem timerAccess : Obligations.TimerAccess := fun s x =>
  ⟨answers_of_exec_eq_setReg (· = s.dt) (exec_ldVxDt s x) rfl,
    ⟨_, exec_ldDtVx s x, rfl, frameBut_setDt s _⟩, ⟨_, exec_ldStVx s x, rfl, frameBut_setSt s _⟩⟩

end Sys2Proof.Claims
end

section
/-! PROOFS. Block stores and loads through `I` (spec/43_index_memory.md): what a stored block reads as, what a loaded block
leaves in the registers, and the range fault of both (spec/20_memory.md R53). -/

namespace Sys2Proof.Machine

/-- The state after the bytes `bs` were stored from `I` on. -/
def State.stored (s : State) (bs : List Byte) : State := { s with mem := s.mem.writeList s.i.toNat bs }

variable {s : State} {x : Reg} {bs : List Byte}

theorem storeBlock_of_inRange (h : s.i.toNat + bs.length ≤ 4096) : s.storeBlock bs = some (s.stored bs) := by
  rw [State.storeBlock_eq, if_pos (.inr h)]
  rfl

theorem storeBlock_of_outOfRange (hpos : 0 < bs.length) (h : 4096 < s.i.toNat + bs.length) : s.storeBlock bs = none := by
  rw [State.storeBlock_eq, if_neg (by omega)]

theorem loadBlock_of_inRange {n : Nat} (h : n = 0 ∨ s.i.toNat + n ≤ 4096) :
    s.loadBlock n = some (s.mem.readList s.i.toNat n) := by
  rw [State.loadBlock_eq, if_pos h]

theorem loadBlock_of_outOfRange {n : Nat} (hpos : 0 < n) (h : 4096 < s.i.toNat + n) : s.loadBlock n = none := by
  rw [State.loadBlock_eq, if_neg (by omega)]

theorem byteAt_stored_inside {k : Nat} (hk : k < bs.length) : (s.stored bs).byteAt (s.effAddr k) = bs[k] :=
  Memory.read_writeList_inside bs s.mem s.i.toNat k hk

theorem byteAt_stored_outside {a : Nat} (h : a < s.effAddr 0 ∨ s.effAddr bs.length ≤ a) :
    (s.stored bs).byteAt a = s.byteAt a :=
  Memory.read_writeList_outside bs s.mem s.i.toNat a h

/-! ### The instructions, in range and out of range -/

theorem exec_ldBVx_inRange (h : s.i.toNat + 2 ≤ 0xFFF) : exec (.ldBVx x) s = .next (s.stored (bcdDigits (s.reg x))) := by
  have hstore : s.storeBlock (bcdDigits (s.reg x)) = _ := storeBlock_of_inRange (show s.i.toNat + 3 ≤ 4096 by omega)
  simp only [exec, execLdBVx, hstore]

theorem exec_ldBVx_outOfRange (h : s.i.toNat + 2 > 0xFFF) : exec (.ldBVx x) s = s.raise .dataRange (.ldBVx x) := by
  have hstore : s.storeBlock (bcdDigits (s.reg x)) = none :=
    storeBlock_of_outOfRange (show 0 < 3 by decide) (show 4096 < s.i.toNat + 3 by omega)
  simp only [exec, execLdBVx, hstore]

theorem exec_ldIIndVx_inRange (h : s.i.toNat + x.toNat ≤ 0xFFF) :
    exec (.ldIIndVx x) s = .next (s.stored (s.regsUpTo x)) := by
  have hstore : s.storeBlock (s.regsUpTo x) = _ := storeBlock_of_inRange (by rw [State.length_regsUpTo]; omega)
  simp only [exec, execLdIIndVx, hstore]

theorem exec_ldIIndVx_outOfRange (h : s.i.toNat + x.toNat > 0xFFF) :
    exec (.ldIIndVx x) s = s.raise .dataRange (.ldIIndVx x) := by
  have hstore : s.storeBlock (s.regsUpTo x) = none :=
    storeBlock_of_outOfRange (by rw [State.length_regsUpTo]; omega) (by rw [State.length_regsUpTo]; omega)
  simp only [exec, execLdIIndVx, hstore]

theorem exec_ldVxIInd_inRange (h : s.i.toNat + x.toNat ≤ 0xFFF) :
    exec (.ldVxIInd x) s = .next (s.setRegsFrom 0 (s.mem.readList s.i.toNat (regCount x))) := by
  have hload := loadBlock_of_inRange (s := s) (n := regCount x) (.inr (show s.i.toNat + (x.toNat + 1) ≤ 4096 by omega))
  simp only [exec, execLdVxIInd, hload]

theorem exec_ldVxIInd_outOfRange (h : s.i.toNat + x.toNat > 0xFFF) :
    exec (.ldVxIInd x) s = s.raise .dataRange (.ldVxIInd x) := by
  have hload := loadBlock_of_outOfRange (s := s) (n := regCount x) (Nat.succ_pos x.toNat)
    (show 4096 < s.i.toNat + (x.toNat + 1) by omega)
  simp only [exec, execLdVxIInd, hload]

theorem exec_drwVxVyN_outOfRange (x y : Reg) {n : Nibble} (hpos : 0 < n.toNat)
    (h : s.i.toNat + n.toNat - 1 > 0xFFF) : exec (.drwVxVyN x y n) s = s.raise .dataRange (.drwVxVyN x y n) := by
  have hload := loadBlock_of_outOfRange (s := s) (n := rowCount n) hpos (show 4096 < s.i.toNat + n.toNat by omega)
  simp only [exec, execDrwVxVyN, hload]

/-! ### What is stored and what is loaded -/

theorem toNat_ofNat_byte {n : Nat} (h : n < 256) : (BitVec.ofNat 8 n).toNat = n := by
  rw [BitVec.toNat_ofNat, Nat.mod_eq_of_lt h]

theorem getElem_regsUpTo_toNat {r : Reg} (h : r.toNat < (s.regsUpTo x).length) : (s.regsUpTo x)[r.toNat] = s.reg r := by
  rw [State.getElem_regsUpTo, BitVec.ofNat_toNat, BitVec.setWidth_eq]

theorem byteAt_stored_regsUpTo {r : Reg} (h : r.toNat ≤ x.toNat) :
    (s.stored (s.regsUpTo x)).byteAt (s.effAddr r.toNat) = s.reg r := by
  have hlt : r.toNat < (s.regsUpTo x).length := by rw [State.length_regsUpTo]; omega
  rw [byteAt_stored_inside hlt, getElem_regsUpTo_toNat]

theorem reg_loaded (s : State) (x r : Reg) : (s.setRegsFrom 0 (s.mem.readList s.i.toNat (regCount x))).reg r =
    if r.toNat ≤ x.toNat then s.byteAt (s.effAddr r.toNat) else s.reg r := by
  have hx : x.toNat < 16 := x.isLt
  have hlen : (s.mem.readList s.i.toNat (regCount x)).length = x.toNat + 1 := Memory.length_readList _ _ _
  rw [State.reg_setRegsFrom _ _ _ _ (by omega), if_pos (Nat.zero_le _), Nat.sub_zero, List.getD_eq_getElem?_getD]
  split
  · rw [Memory.getElem?_readList _ _ _ _ (by rw [regCount]; omega)]
    rfl
  · rw [List.getElem?_eq_none (by omega), Option.getD_none]

/-! ### Fetching what was stored (R54, R62) -/

theorem toNat_wordOfBytes (hi lo : Byte) : (wordOfBytes hi lo).toNat = 256 * hi.toNat + lo.toNat := by
  rw [wordOfBytes, BitVec.toNat_append, ← Nat.shiftLeft_add_eq_or_of_lt lo.isLt, Nat.shiftLeft_eq]
  omega

theorem fetchWord_eq_some (h : s.pc.toNat ≤ 0xFFE) :
    s.fetchWord = some (wordOfBytes (s.byteAt s.pc.toNat) (s.byteAt (s.pc.toNat + 1))) := if_pos h

end Sys2Proof.Machine

namespace Sys2Proof.Claims

open Sys2Proof.Machine

/-- Loading registers leaves everything else as it was. -/
theorem frameBut_setRegsFrom (s : State) (bs : List Byte) :
    FrameBut [] ((List.range 16).map (BitVec.ofNat 4)) s (s.setRegsFrom 0 bs) := by
  obtain ⟨v, hv⟩ := State.setRegsFrom_eq bs s 0
  rw [hv]
  refine ⟨fun r hr => absurd (List.mem_map.2 ⟨r.toNat, List.mem_range.2 r.isLt, BitVec.ofNat_toNat ..⟩) hr, ?_⟩
  exact ⟨fun _ => rfl, fun _ => rfl, fun _ => rfl, fun _ _ => rfl, fun _ => rfl, fun _ => rfl, fun _ _ => rfl,
    fun _ _ _ => rfl, fun _ => ⟨rfl, rfl, rfl, rfl⟩, rfl, rfl, rfl, rfl, rfl⟩

/-- Settles O17: the block stored is the three digits, and each fits a byte. -/
theorem decimalStoreWritesThreeDigits : Obligations.DecimalStoreWritesThreeDigits := by
  intro s x hrange
  have hb : (s.reg x).toNat < 256 := (s.reg x).isLt
  have hdigit : ∀ k (hk : k < 3), (s.stored (bcdDigits (s.reg x))).byteAt (s.effAddr k) = (bcdDigits (s.reg x))[k] :=
    fun k hk => byteAt_stored_inside hk
  refine ⟨_, exec_ldBVx_inRange hrange, ?_, ?_, ?_, fun a ha => byteAt_stored_outside ?_, frameBut_setMem s _⟩
  · rw [hdigit 0 (by decide)]
    exact toNat_ofNat_byte (by omega)
  · rw [hdigit 1 (by decide)]
    exact toNat_ofNat_byte (by omega)
  · rw [hdigit 2 (by decide)]
    exact toNat_ofNat_byte (by omega)
  · exact ha

/-- Settles O18: the block stored is `V[0]` to `V[x]`. -/
theorem registerStoreWritesTheBlock : Obligations.RegisterStoreWritesTheBlock := by
  intro s x hrange
  refine ⟨_, exec_ldIIndVx_inRange hrange, fun r hr => byteAt_stored_regsUpTo hr, fun a ha => byteAt_stored_outside ?_,
    frameBut_setMem s _⟩
  rw [State.length_regsUpTo]
  exact ha

/-- Settles O19: a register up to `x` gets its byte of the block, one above keeps its value. -/
theorem registerLoadReadsTheBlock : Obligations.RegisterLoadReadsTheBlock := by
  intro s x hrange
  refine ⟨_, exec_ldVxIInd_inRange hrange, fun r hr => ?_, fun r hr => ?_, frameBut_setRegsFrom s _⟩
  · rw [reg_loaded, if_pos hr]
  · rw [reg_loaded, if_neg (Nat.not_le.2 hr)]

/-- Settles O20: each of the four checks its whole range first and raises. -/
theorem outOfRangeAccessFaults : Obligations.OutOfRangeAccessFaults := fun _ x y _ =>
  ⟨fun h => raises_of_exec_eq_raise (exec_ldBVx_outOfRange h),
    fun h => ⟨raises_of_exec_eq_raise (exec_ldIIndVx_outOfRange h), raises_of_exec_eq_raise (exec_ldVxIInd_outOfRange h)⟩,
    fun hpos h => raises_of_exec_eq_raise (exec_drwVxVyN_outOfRange x y hpos h)⟩

/-- Settles O21: the load reads at the addresses where the store wrote. -/
theorem storeThenLoadRestoresTheRegisters : Obligations.StoreThenLoadRestoresTheRegisters := by
  intro s x hrange
  refine ⟨_, exec_ldIIndVx_inRange hrange, fun t' hi hbytes => ?_⟩
  replace hi : t'.i = s.i := hi
  refine ⟨_, exec_ldVxIInd_inRange (hi ▸ hrange), fun r hr => ?_⟩
  have haddr : t'.effAddr r.toNat = s.effAddr r.toNat := by rw [State.effAddr, State.effAddr, hi]
  rw [reg_loaded, if_pos hr, haddr, hbytes, byteAt_stored_regsUpTo hr]

/-- Settles O22: the two bytes fetched are the two registers stored there, high byte first. -/
theorem storedCodeIsFetched : Obligations.StoredCodeIsFetched := by
  rintro s x r hi lo hrange hr rfl rfl
  have hx : x.toNat < 16 := x.isLt
  have hsucc : (r + 1).toNat = r.toNat + 1 := BitVec.toNat_add_of_lt (show r.toNat + 1 < 2 ^ 4 by omega)
  refine ⟨_, exec_ldIIndVx_inRange hrange, fun t' hbytes hpc => ⟨_, fetchWord_eq_some (by omega), ?_⟩⟩
  have hhigh : t'.byteAt t'.pc.toNat = s.reg r := by
    rw [hbytes, hpc]
    exact byteAt_stored_regsUpTo (by omega)
  have hlow : t'.byteAt (t'.pc.toNat + 1) = s.reg (r + 1) := by
    rw [hbytes, hpc, Nat.add_assoc, ← hsucc]
    exact byteAt_stored_regsUpTo (by omega)
  rw [toNat_wordOfBytes, hhigh, hlow]

end Sys2Proof.Claims
end

section
/-! PROOFS. The keypad instructions (spec/44_random_keys_timers.md): the skips by their range test, and the key wait by the
list of held keys, which is in rising order. -/

namespace Sys2Proof.Machine

variable {s : State} {x : Reg}

theorem exec_skpVx_key (h : (s.reg x).toNat ≤ 15) :
    exec (.skpVx x) s = .next (s.skipIf (s.keyHeld (s.reg x).toNat)) := if_neg (by omega)

theorem exec_skpVx_noKey (h : (s.reg x).toNat > 15) : exec (.skpVx x) s = s.raise .keyRange (.skpVx x) := if_pos h

theorem exec_sknpVx_key (h : (s.reg x).toNat ≤ 15) :
    exec (.sknpVx x) s = .next (s.skipIf (!s.keyHeld (s.reg x).toNat)) := if_neg (by omega)

theorem exec_sknpVx_noKey (h : (s.reg x).toNat > 15) : exec (.sknpVx x) s = s.raise .keyRange (.sknpVx x) := if_pos h

/-! ### The key wait by the list of held keys (R204) -/

theorem exec_ldVxK (s : State) (x : Reg) : exec (.ldVxK x) s = .next (s.keyWait .firstMatch x) := rfl

theorem keyWait_firstMatch_nil (h : s.heldKeys = []) : s.keyWait .firstMatch x = s.setPc s.instrAddr := by
  simp only [State.keyWait, h]

theorem keyWait_firstMatch_cons {k : BitVec 4} {ks : List (BitVec 4)} (h : s.heldKeys = k :: ks) :
    s.keyWait .firstMatch x = s.setReg x (k.setWidth 8) := by
  simp only [State.keyWait, h]

theorem keyWait_everyMatch (s : State) (x : Reg) :
    s.keyWait .everyMatch x = (s.setPc s.instrAddr).assignKeys x s.heldKeys := rfl

theorem heldKeys_rising (s : State) : s.heldKeys.Pairwise fun j k => j.toNat < k.toNat :=
  List.Pairwise.filter _ (by decide)

theorem mem_heldKeys_iff {k : BitVec 4} : k ∈ s.heldKeys ↔ s.keys.getLsbD k.toNat = true := s.mem_heldKeys k

theorem ofNat_mem_heldKeys {k : Nat} (hk : k < 16) (h : s.keys.getLsbD k = true) : BitVec.ofNat 4 k ∈ s.heldKeys := by
  rwa [mem_heldKeys_iff, BitVec.toNat_ofNat, Nat.mod_eq_of_lt hk]

theorem heldKeys_of_no_key (h : s.keys = 0) : s.heldKeys = [] := by
  refine List.eq_nil_iff_forall_not_mem.2 fun k hk => ?_
  rw [mem_heldKeys_iff, h] at hk
  simp at hk

theorem toNat_keyByte (k : BitVec 4) : (k.setWidth 8).toNat = k.toNat := BitVec.toNat_setWidth_of_le (by decide)

/-- The first key of the list is the smallest one held. -/
theorem heldKeys_eq_cons_of_least {k : Nat} (hk : k < 16) (hheld : s.keys.getLsbD k = true)
    (hleast : ∀ j, j < k → s.keys.getLsbD j = false) : ∃ j ks, s.heldKeys = j :: ks ∧ j.toNat = k := by
  have hmem := ofNat_mem_heldKeys hk hheld
  obtain ⟨j, ks, hlist⟩ := List.exists_cons_of_ne_nil (List.ne_nil_of_mem hmem)
  refine ⟨j, ks, hlist, ?_⟩
  have hj : s.keys.getLsbD j.toNat = true := mem_heldKeys_iff.1 (hlist ▸ List.mem_cons_self)
  have hge : k ≤ j.toNat := Nat.le_of_not_lt fun hlt => by rw [hleast _ hlt] at hj; cases hj
  have hrising := heldKeys_rising s
  rw [hlist] at hmem hrising
  have htoNat : (BitVec.ofNat 4 k).toNat = k := by rw [BitVec.toNat_ofNat, Nat.mod_eq_of_lt hk]
  obtain heq | hmem := List.mem_cons.1 hmem
  · rw [← heq, htoNat]
  · have hlt := (List.pairwise_cons.1 hrising).1 _ hmem
    omega

/-- The last key of the list is the greatest one held. -/
theorem heldKeys_eq_append_of_greatest {k : Nat} (hk : k < 16) (hheld : s.keys.getLsbD k = true)
    (hgreatest : ∀ j, k < j → s.keys.getLsbD j = false) : ∃ ks j, s.heldKeys = ks ++ [j] ∧ j.toNat = k := by
  have hmem := ofNat_mem_heldKeys hk hheld
  obtain hnil | ⟨ks, j, hlist⟩ := List.eq_nil_or_concat s.heldKeys
  · rw [hnil] at hmem
    cases hmem
  rw [List.concat_eq_append] at hlist
  refine ⟨ks, j, hlist, ?_⟩
  have hj : s.keys.getLsbD j.toNat = true := mem_heldKeys_iff.1 (by simp [hlist])
  have hle : j.toNat ≤ k := Nat.le_of_not_lt fun hlt => by rw [hgreatest _ hlt] at hj; cases hj
  have hrising := heldKeys_rising s
  rw [hlist] at hmem hrising
  have htoNat : (BitVec.ofNat 4 k).toNat = k := by rw [BitVec.toNat_ofNat, Nat.mod_eq_of_lt hk]
  obtain hmem | hmem := List.mem_append.1 hmem
  · have hlt := (List.pairwise_append.1 hrising).2.2 _ hmem j (List.mem_singleton_self j)
    omega
  · rw [← List.mem_singleton.1 hmem, htoNat]

/-! ### Assigning keys one after another (policy `EVERY_MATCH`) -/

theorem assignKeys_append : ∀ (ks js : List (BitVec 4)) (s : State),
    s.assignKeys x (ks ++ js) = (s.assignKeys x ks).assignKeys x js
  | [], _, _ => rfl
  | _ :: ks, js, _ => assignKeys_append ks js _

theorem reg_assignKeys_concat (s : State) (ks : List (BitVec 4)) (k : BitVec 4) :
    (s.assignKeys x (ks ++ [k])).reg x = k.setWidth 8 := by
  rw [assignKeys_append, State.assignKeys, State.assignKeys, State.skipIf_eq, State.reg_setPc, State.reg_setReg_same]

theorem pc_assignKeys : ∀ (ks : List (BitVec 4)) (s : State),
    (s.assignKeys x ks).pc = s.pc + BitVec.ofNat 16 (2 * ks.length)
  | [], s => (BitVec.add_zero s.pc).symm
  | k :: ks, s => by
    have hpc : ((s.setReg x (k.setWidth 8)).skipIf true).pc = s.pc + BitVec.ofNat 16 2 := rfl
    rw [State.assignKeys, pc_assignKeys ks, hpc, List.length_cons, BitVec.add_assoc, ← BitVec.ofNat_add]
    congr 2
    omega

/-- The keys scanned are the numbers 0 to 15. -/
theorem length_heldKeys (s : State) : s.heldKeys.length = (List.range 16).countP fun k => s.keys.getLsbD k := by
  have hscan : List.range 16 = Config.keyScanOrder.map BitVec.toNat := by decide
  rw [hscan, List.countP_map, State.heldKeys, ← List.countP_eq_length_filter]
  rfl

end Sys2Proof.Machine

namespace Sys2Proof.Claims

open Sys2Proof.Machine

theorem frameBut_assignKeys (x : Reg) : ∀ (ks : List (BitVec 4)) (s : State), FrameBut [.pc] [x] s (s.assignKeys x ks)
  | [], s => frameBut_refl _ _ s
  | k :: ks, s => by
    have hreg : FrameBut [.pc] [x] s (s.setReg x (k.setWidth 8)) := frameBut_setReg s _ (List.mem_singleton_self x)
    have hskip : FrameBut [.pc] [x] _ ((s.setReg x (k.setWidth 8)).skipIf true) :=
      (frameBut_setPc _ _).mono (List.Subset.refl _) (List.nil_subset _)
    exact (hreg.trans hskip).trans (frameBut_assignKeys x ks _)

/-- Settles O25: the range test decides between the fault and a skip by the key's bit. -/
theorem keySkips : Obligations.KeySkips := by
  refine fun s x => ⟨fun hkey => ⟨answers_of_exec_eq_skipIf (exec_skpVx_key hkey) Iff.rfl, ?_⟩, fun hno =>
    ⟨raises_of_exec_eq_raise (exec_skpVx_noKey hno), raises_of_exec_eq_raise (exec_sknpVx_noKey hno)⟩⟩
  have hskip := answers_of_exec_eq_skipIf (c := ¬ s.keys.getLsbD (s.reg x).toNat = true) (exec_sknpVx_key hkey)
    (by rw [State.keyHeld, Bool.not_eq_true', Bool.not_eq_true])
  simpa only [ite_not] using hskip

/-- Settles O26: the list of held keys is empty, or starts with the smallest. -/
theorem keyWaitTakesTheFirstHeldKey : Obligations.KeyWaitTakesTheFirstHeldKey := by
  refine fun s x => ⟨fun hnone => ?_, fun k hk hheld hleast => ?_⟩
  · have hexec := exec_ldVxK s x
    rw [keyWait_firstMatch_nil (heldKeys_of_no_key hnone)] at hexec
    exact ⟨_, hexec, rfl, frameBut_setPc s _⟩
  · obtain ⟨j, ks, hlist, hj⟩ := heldKeys_eq_cons_of_least hk hheld hleast
    have hexec := exec_ldVxK s x
    rw [keyWait_firstMatch_cons hlist] at hexec
    exact answers_of_exec_eq_setReg (·.toNat = k) hexec ((toNat_keyByte j).trans hj)

/-- Settles O27: the list of held keys is empty or has one key, whose advance undoes the return to the instruction. -/
theorem keyPoliciesAgreeOnOneKey : Obligations.KeyPoliciesAgreeOnOneKey := by
  intro s x hone
  rw [keyWait_everyMatch]
  match hlist : s.heldKeys with
  | [] => rw [keyWait_firstMatch_nil hlist, State.assignKeys]
  | [k] =>
    rw [keyWait_firstMatch_cons hlist, State.assignKeys, State.assignKeys, State.skipIf_eq]
    show (s.setReg x (k.setWidth 8)).setPc (s.pc - 2 + 2) = s.setReg x (k.setWidth 8)
    rw [BitVec.sub_add_cancel]
    rfl
  | j :: k :: ks =>
    have hj : s.keys.getLsbD j.toNat = true := mem_heldKeys_iff.1 (by simp [hlist])
    have hk : s.keys.getLsbD k.toNat = true := mem_heldKeys_iff.1 (by simp [hlist])
    have hrising := heldKeys_rising s
    rw [hlist] at hrising
    have hlt := (List.pairwise_cons.1 hrising).1 k List.mem_cons_self
    exact absurd (hone _ _ j.isLt k.isLt hj hk) hlt.ne

/-- Settles O28: one advance per key of the list, which has as many keys as are held and ends with the highest. -/
theorem everyMatchAdvancesPerKey : Obligations.EveryMatchAdvancesPerKey := by
  intro s x
  rw [keyWait_everyMatch]
  refine ⟨?_, fun k hk hheld hgreatest => ?_, ?_⟩
  · rw [pc_assignKeys, length_heldKeys]
    rfl
  · obtain ⟨ks, j, hlist, hj⟩ := heldKeys_eq_append_of_greatest hk hheld hgreatest
    rw [hlist, reg_assignKeys_concat, toNat_keyByte, hj]
  · exact ((frameBut_setPc s _).mono (List.Subset.refl _) (List.nil_subset _)).trans (frameBut_assignKeys x _ _)

end Sys2Proof.Claims
end

section
/-! PROOFS. The display instructions (spec/45_display.md): a draw toggles the distinct pixels that the sprite covers, a clear
turns all off, and the event `FB_CHANGED` of the tick. -/

namespace Sys2Proof.Machine

variable {s : State}

/-- The pixels under the 1 bits of the sprite at `I`. -/
def drawnPixels (s : State) (x y : Reg) (n : Nibble) : List (Fin 32 × Fin 64) :=
  spritePixels (s.reg x) (s.reg y) 0 (s.mem.readList s.i.toNat (rowCount n))

/-- The framebuffer after the draw, and whether it collided. -/
def drawnFrame (s : State) (x y : Reg) (n : Nibble) : FrameBuffer × Bool :=
  drawSprite s.fb (s.reg x) (s.reg y) (s.mem.readList s.i.toNat (rowCount n))

/-- The state after the draw. -/
def State.drawn (s : State) (x y : Reg) (n : Nibble) : State :=
  (s.setFb (drawnFrame s x y n).1).setFlag (drawnFrame s x y n).2

theorem exec_cls (s : State) : exec .cls s = .next (s.setFb blankFrame) := rfl

theorem pixel_blankFrame (y : Fin 32) (x : Fin 64) : FrameBuffer.pixel blankFrame y x = false := by
  simp [FrameBuffer.pixel, blankFrame]

theorem getD_readList (m : Memory) (a : Nat) {n k : Nat} (h : k < n) : (m.readList a n).getD k 0 = m.read (a + k) := by
  rw [List.getD_eq_getElem?_getD, Memory.getElem?_readList m n a k h, Option.getD_some]

theorem drawnFrame_eq_fold (s : State) (x y : Reg) (n : Nibble) :
    drawnFrame s x y n = (drawnPixels s x y n).foldl togglePixel (s.fb, false) :=
  drawRows_eq_fold _ _ _ 0 _

theorem nodup_drawnPixels (s : State) (x y : Reg) (n : Nibble) : (drawnPixels s x y n).Nodup := by
  have hn : n.toNat < 16 := n.isLt
  exact nodup_spritePixels _ _ _ 0 (by rw [Memory.length_readList, rowCount]; omega)

theorem pixel_drawn (s : State) (x y : Reg) (n : Nibble) (q : Fin 32) (p : Fin 64) :
    (s.drawn x y n).fb.pixel q p = (decide ((q, p) ∈ drawnPixels s x y n) ^^ s.fb.pixel q p) := by
  show (drawnFrame s x y n).1.pixel q p = _
  rw [drawnFrame_eq_fold, (fold_togglePixel _ _ (nodup_drawnPixels s x y n)).1]

theorem collided_drawnFrame (s : State) (x y : Reg) (n : Nibble) :
    (drawnFrame s x y n).2 = true ↔ ∃ a ∈ drawnPixels s x y n, s.fb.pixel a.1 a.2 = true := by
  rw [drawnFrame_eq_fold, (fold_togglePixel _ _ (nodup_drawnPixels s x y n)).2]
  simp

theorem reg_flag_drawn (s : State) (x y : Reg) (n : Nibble) :
    (s.drawn x y n).reg 0xF = flagByte (drawnFrame s x y n).2 := by
  rw [State.drawn, State.reg_setFlag, if_pos rfl]

theorem reg_flag_drawn_of_on {x y : Reg} {n : Nibble} {a : Fin 32 × Fin 64} (ha : a ∈ drawnPixels s x y n)
    (hon : s.fb.pixel a.1 a.2 = true) : (s.drawn x y n).reg 0xF = 1 := by
  rw [reg_flag_drawn, (collided_drawnFrame s x y n).2 ⟨a, ha, hon⟩]
  rfl

theorem reg_flag_drawn_of_off {x y : Reg} {n : Nibble}
    (hoff : ∀ a ∈ drawnPixels s x y n, s.fb.pixel a.1 a.2 = false) : (s.drawn x y n).reg 0xF = 0 := by
  have hno : (drawnFrame s x y n).2 = false := Bool.eq_false_iff.2 fun h => by
    obtain ⟨a, ha, hon⟩ := (collided_drawnFrame s x y n).1 h
    rw [hoff a ha] at hon
    cases hon
  rw [reg_flag_drawn, hno]
  rfl

end Sys2Proof.Machine

namespace Sys2Proof.Claims

open Sys2Proof.Machine

variable {s : State}

theorem exec_drwVxVyN_inRange (x y : Reg) {n : Nibble} (h : SpriteInRange s n) :
    exec (.drwVxVyN x y n) s = .next (s.drawn x y n) := by
  have hload : s.loadBlock (rowCount n) = some (s.mem.readList s.i.toNat (rowCount n)) :=
    loadBlock_of_inRange (by unfold SpriteInRange at h; rw [rowCount]; omega)
  simp only [exec, execDrwVxVyN, hload]
  rfl

/-- The list of toggled pixels is the set of pixels that the sprite covers. -/
theorem mem_drawnPixels_iff {x y : Reg} {n : Nibble} {q : Fin 32} {p : Fin 64} :
    (q, p) ∈ drawnPixels s x y n ↔ SpriteCovers s x y n q p := by
  unfold drawnPixels SpriteCovers SpriteBit
  rw [mem_spritePixels, Memory.length_readList]
  refine exists_congr fun row => exists_congr fun col => and_congr_right fun hrow => and_congr_right fun _ => ?_
  rw [getD_readList _ _ hrow, Prod.mk.injEq, eq_screenRow_iff, eq_screenCol_iff, Nat.zero_add]
  exact and_congr Iff.rfl (and_comm.trans (and_congr eq_comm eq_comm))

theorem spriteCovers_of_mem {x y : Reg} {n : Nibble} {a : Fin 32 × Fin 64} (ha : a ∈ drawnPixels s x y n) :
    SpriteCovers s x y n a.1 a.2 := mem_drawnPixels_iff.1 ha

theorem frameBut_drawn (s : State) (x y : Reg) (n : Nibble) : FrameBut [.fb] [0xF] s (s.drawn x y n) :=
  ((frameBut_setFb s _).mono (List.Subset.refl _) (List.nil_subset _)).trans
    (frameBut_setReg _ _ (List.mem_singleton_self _))

/-- Settles O31: the pixels toggled are distinct and are those that the sprite covers, so each covered pixel is inverted
once, and a collision is recorded exactly where one of them was on. -/
theorem drawInvertsExactlyTheSpritePixels : Obligations.DrawInvertsExactlyTheSpritePixels := by
  intro s x y n hrange
  refine ⟨_, exec_drwVxVyN_inRange x y hrange, fun py px => ⟨fun hcov => ?_, fun hcov => ?_⟩, ?_, fun hoff => ?_,
    frameBut_drawn s x y n⟩
  · rw [pixel_drawn, decide_eq_true (mem_drawnPixels_iff.2 hcov), Bool.true_xor]
  · rw [pixel_drawn, decide_eq_false (mt mem_drawnPixels_iff.1 hcov), Bool.false_xor]
  · rintro ⟨py, px, hcov, hon⟩
    exact reg_flag_drawn_of_on (mem_drawnPixels_iff.2 hcov) hon
  · exact reg_flag_drawn_of_off fun a ha => hoff a.1 a.2 (spriteCovers_of_mem ha)

/-- Settles O32: the second draw toggles the same pixels, each of which the first one inverted. -/
theorem drawingTwiceRestores : Obligations.DrawingTwiceRestores := by
  intro s x y n hrange
  refine ⟨_, exec_drwVxVyN_inRange x y hrange, fun hx hy => ⟨_, exec_drwVxVyN_inRange (s := s.drawn x y n) x y hrange, ?_⟩⟩
  have hsame : drawnPixels (s.drawn x y n) x y n = drawnPixels s x y n := by
    unfold drawnPixels
    rw [hx, hy]
    rfl
  have hinverted : ∀ a ∈ drawnPixels s x y n, (s.drawn x y n).fb.pixel a.1 a.2 = !s.fb.pixel a.1 a.2 := fun a ha => by
    rw [pixel_drawn, decide_eq_true ha, Bool.true_xor]
  refine ⟨fun py px => ?_, ?_, fun hon => reg_flag_drawn_of_off fun a ha => ?_⟩
  · rw [pixel_drawn, pixel_drawn, hsame, ← Bool.xor_assoc, Bool.xor_self, Bool.false_xor]
  · rintro ⟨py, px, hcov, hoff⟩
    have ha := mem_drawnPixels_iff.2 hcov
    exact reg_flag_drawn_of_on (hsame ▸ ha) (by rw [hinverted _ ha, hoff]; rfl)
  · rw [hsame] at ha
    rw [hinverted a ha, hon a.1 a.2 (spriteCovers_of_mem ha)]
    rfl

end Sys2Proof.Claims
end

section
/-! PROOFS. One tick (spec/40_tick_cycle.md R111, spec/60_exceptions.md R244, R252): the instruction it executes, the state in
which phase X starts, the state a fault leaves, and what becomes of the timers. -/

namespace Sys2Proof.Machine

variable {s t : State} {i : Instr}

/-! ### The instruction of the tick -/

theorem nextInstr_eq_some_iff : s.nextInstr = some i ↔
    s.Running ∧ ∃ w, s.fetchWord = some w ∧ decodeWord w = .ok i := by
  simp only [decodeWord_eq_ok_iff]
  unfold State.nextInstr
  cases hhalt : s.halted <;> cases hf : s.fetchWord <;> simp [State.Running, hhalt]

theorem step_of_nextInstr (h : s.nextInstr = some i) : step s = exec i s.beginTick.timerPhase.advance := by
  obtain ⟨hrun, w, hf, hd⟩ := nextInstr_eq_some_iff.1 h
  exact step_of_decodes hrun hf hd

/-- The event `FB_CHANGED` by the result of phase X. -/
theorem fbChanged_iff (h : s.nextInstr = some i) : s.fbChanged = true ↔
    Instr.notifiesDisplay i = true ∧ ∃ t, exec i s.beginTick.timerPhase.advance = .next t ∧ t.Running := by
  unfold State.fbChanged
  rw [h, step_of_nextInstr h, Bool.and_eq_true]
  refine and_congr_right fun _ => ?_
  cases exec i s.beginTick.timerPhase.advance <;> simp

theorem decodeWord_of_decode_pair {hi lo : Byte} {rest : List Byte} (h : decode [hi, lo] = .ok (i, rest)) :
    decodeWord (wordOfBytes hi lo) = .ok i := by
  obtain hd | ⟨j, hd⟩ := decodeWord_cases (wordOfBytes hi lo)
  · simp [decode, hd] at h
  · simp only [decode, hd, Except.ok.injEq, Prod.mk.injEq] at h
    rw [hd, h.1]

/-! ### The phases before execution -/

theorem toNat_countDown (b : Byte) : (countDown b).toNat = b.toNat - 1 := by
  unfold countDown
  split
  · next h => rw [h]; rfl
  · next h =>
    have hpos : b.toNat ≠ 0 := fun hz => h (BitVec.eq_of_toNat_eq hz)
    exact BitVec.toNat_sub_of_le (BitVec.le_def.2 (Nat.one_le_iff_ne_zero.2 hpos))

theorem beginTick_of_inputs {p : TickInput} {l : List TickInput} (h : s.inputs = p :: l) :
    s.beginTick.keys = p.keys ∧ s.beginTick.rand = p.rand ∧ s.beginTick.inputs = l := by
  simp [State.beginTick, State.sample, h]

/-- The start of a tick sets `STARTED` and takes a sample, nothing else. -/
theorem withInputsOf_beginTick (s : State) : Claims.withInputsOf { s with started := true } s.beginTick = s.beginTick := by
  obtain ⟨k, r, l, h⟩ := s.beginTick_eq
  rw [h]
  rfl

/-! ### The state a fault leaves -/

/-- The state that a tick from `s` leaves when it halts with cause `c` and fetched word `w` (R244). -/
def State.haltTick (s : State) (c : Cause) (w : Word) : State := s.beginTick.timerPhase.enterFault c s.pc w

theorem fetchFault_eq_haltTick (s : State) : s.beginTick.timerPhase.fetchFault = s.haltTick .fetchRange 0 := by
  rw [State.fetchFault, State.timerPhase_pc, State.beginTick_pc, State.haltTick]

theorem illegalFault_eq_haltTick (s : State) (w : Word) :
    s.beginTick.timerPhase.illegalFault w = s.haltTick .illegalInstruction w := by
  rw [State.illegalFault, State.timerPhase_pc, State.beginTick_pc, State.haltTick]

/-- A fault of phase X undoes the default advance. -/
theorem raised_eq_haltTick (s : State) (c : Cause) (w : Word) :
    s.beginTick.timerPhase.advance.enterFault c (s.beginTick.timerPhase.advance.pc - 2) w = s.haltTick c w := by
  rw [State.advance_pc, BitVec.add_sub_cancel, State.timerPhase_pc, State.beginTick_pc]
  rfl

/-- A tick of a running machine that does not reach phase X halts; one that does answers what the instruction answers. -/
theorem step_running_cases (hrun : s.Running) (hstep : step s = .next t) :
    (∃ c w, c ≠ .none ∧ s.fetchWord.getD 0 = w ∧ s.nextInstr = none ∧ t = s.haltTick c w) ∨
    ∃ w i, s.fetchWord = some w ∧ encode i = w ∧ s.nextInstr = some i ∧
      exec i s.beginTick.timerPhase.advance = .next t := by
  obtain ⟨hhalt, -⟩ | ⟨-, hf, rfl⟩ | ⟨-, w, hf, hd, rfl⟩ | ⟨-, w, i, hf, hd, hexec⟩ := step_cases hstep
  · exact absurd (hrun.symm.trans hhalt) nofun
  · rw [s.fetchWord_beginTick] at hf
    refine .inl ⟨.fetchRange, 0, nofun, by rw [hf]; rfl, ?_, fetchFault_eq_haltTick s⟩
    simp [State.nextInstr, hrun, hf]
  · rw [s.fetchWord_beginTick] at hf
    refine .inl ⟨.illegalInstruction, w, nofun, by rw [hf]; rfl, ?_, illegalFault_eq_haltTick s w⟩
    simp [State.nextInstr, hrun, hf, decodeWord_eq_error_iff.1 hd]
  · rw [s.fetchWord_beginTick] at hf
    exact .inr ⟨w, i, hf, encode_of_decodeLegal (decodeWord_eq_ok_iff.1 hd),
      nextInstr_eq_some_iff.2 ⟨hrun, w, hf, hd⟩, hexec⟩

theorem step_halts (hrun : s.Running) (hstep : step s = .next t) (hhalt : t.halted = true) :
    ∃ c w, c ≠ .none ∧ s.fetchWord.getD 0 = w ∧ t = s.haltTick c w := by
  obtain ⟨c, w, hc, hw, -, ht⟩ | ⟨w, i, hf, hw, -, hexec⟩ := step_running_cases hrun hstep
  · exact ⟨c, w, hc, hw, ht⟩
  · have hrun' : s.beginTick.timerPhase.advance.Running := s.beginTick_halted.trans hrun
    obtain ⟨c, hc, rfl⟩ := exec_halts hrun' hexec hhalt
    exact ⟨c, w, (faultCause_ne hc).1, by rw [hf]; rfl, by rw [raised_eq_haltTick, hw]⟩

theorem dt_haltTick (s : State) (c : Cause) (w : Word) : (s.haltTick c w).dt.toNat = s.dt.toNat - 1 := by
  rw [State.haltTick, State.enterFault_dt, State.timerPhase_dt, State.beginTick_dt, toNat_countDown]

theorem st_haltTick (s : State) (c : Cause) (w : Word) : (s.haltTick c w).st.toNat = s.st.toNat - 1 := by
  rw [State.haltTick, State.enterFault_st, State.timerPhase_st, State.beginTick_st, toNat_countDown]

/-! ### The timers when phase X starts -/

theorem dt_phaseX (s : State) : s.beginTick.timerPhase.advance.dt.toNat = s.dt.toNat - 1 := by
  rw [State.advance_dt, State.timerPhase_dt, State.beginTick_dt, toNat_countDown]

theorem st_phaseX (s : State) : s.beginTick.timerPhase.advance.st.toNat = s.st.toNat - 1 := by
  rw [State.advance_st, State.timerPhase_st, State.beginTick_st, toNat_countDown]

theorem reg_phaseX (s : State) (x : Reg) : s.beginTick.timerPhase.advance.reg x = s.reg x := by
  rw [State.reg_advance, State.reg_timerPhase, State.reg_beginTick]

theorem i_phaseX (s : State) : s.beginTick.timerPhase.advance.i = s.i := by
  rw [State.advance_i, State.timerPhase_i, State.beginTick_i]

/-- A quantity that every one of `j` ticks counts down. -/
theorem countDown_over_ticks {f : Nat → Nat} {j : Nat} (h : ∀ n, n < j → f (n + 1) = f n - 1) :
    ∀ n, n ≤ j → f n = f 0 - n
  | 0, _ => rfl
  | n + 1, hn => by rw [h n hn, countDown_over_ticks h n (Nat.le_of_succ_le hn), Nat.sub_sub]

end Sys2Proof.Machine

namespace Sys2Proof.Claims

open Sys2Proof.Machine

variable {s t : State}

theorem frameBut_timerPhase (s : State) : FrameBut [.dt, .st] [] s s.timerPhase :=
  ((frameBut_setDt s _).mono (by simp) (List.Subset.refl _)).trans
    ((frameBut_setSt _ _).mono (by simp) (List.Subset.refl _))

theorem frameBut_phaseX (s : State) : FrameBut [.pc, .dt, .st] [] s s.timerPhase.advance :=
  ((frameBut_timerPhase s).mono (by simp) (List.Subset.refl _)).trans
    ((frameBut_setPc _ _).mono (by simp) (List.Subset.refl _))

/-- Fault entry at the address where `PC` stands leaves `PC`. -/
theorem frameBut_enterFault_pc (s : State) (c : Cause) (w : Word) : FrameBut [.fault] [] s (s.enterFault c s.pc w) :=
  ⟨fun _ _ => rfl, fun _ => rfl, fun _ => rfl, fun _ => rfl, fun _ _ => rfl, fun _ => rfl, fun _ => rfl, fun _ _ => rfl,
    fun _ _ _ => rfl, fun h => absurd (List.mem_singleton_self _) h, rfl, rfl, rfl, rfl, rfl⟩

theorem frameBut_haltTick (s : State) (c : Cause) (w : Word) :
    FrameBut [.dt, .st, .fault] [] s.beginTick (s.haltTick c w) := by
  have hpc : s.beginTick.timerPhase.pc = s.pc := s.beginTick_pc
  rw [State.haltTick, ← hpc]
  exact ((frameBut_timerPhase _).mono (by simp) (List.Subset.refl _)).trans
    ((frameBut_enterFault_pc _ c w).mono (by simp) (List.Subset.refl _))

/-- Settles O34: phases T, F and P before phase X, each by its own frame. -/
theorem stepRunsTheDecodedInstruction : Obligations.StepRunsTheDecodedInstruction := by
  intro s i hrun hpc hdecode
  refine ⟨step_of_decodes hrun (fetchWord_eq_some hpc) (decodeWord_of_decode_pair hdecode), ?_, dt_phaseX s, st_phaseX s,
    s.beginTick_started, fun p l h => beginTick_of_inputs h, frameBut_phaseX _, ?_⟩
  · rw [State.advance_pc, State.timerPhase_pc, State.beginTick_pc]
  · rw [withInputsOf_beginTick]
    exact frameBut_refl _ _ _

/-- Settles O35: the word is the byte at `PC` above the next one. -/
theorem fetchIsBigEndian : Obligations.FetchIsBigEndian := by
  refine fun s hpc => ⟨_, fetchWord_eq_some hpc, fun k hk => ⟨?_, ?_⟩⟩
  · rw [wordOfBytes, BitVec.getLsbD_append, if_neg (by omega), Nat.add_sub_cancel_left]
  · rw [wordOfBytes, BitVec.getLsbD_append, if_pos hk]

/-- Settles O38: no fetch is possible, and the fault is entered with the word 0. -/
theorem fetchAboveTheTopFaults : Obligations.FetchAboveTheTopFaults := fun s hrun hpc =>
  ⟨s.haltTick .fetchRange 0, by rw [step_of_no_fetch hrun (fetchWord_eq_none_iff.2 hpc), fetchFault_eq_haltTick], rfl, rfl,
    rfl, rfl, dt_haltTick .., st_haltTick .., frameBut_haltTick ..⟩

/-- Settles O39: the fault is entered before the default advance, with the fetched word. -/
theorem illegalWordFaults : Obligations.IllegalWordFaults := fun s w hrun hf hd =>
  ⟨s.haltTick .illegalInstruction w, by rw [step_of_illegal hrun hf hd, illegalFault_eq_haltTick], rfl, rfl, rfl, rfl,
    dt_haltTick .., st_haltTick .., frameBut_haltTick ..⟩

/-- Settles O40: whichever phase raises it, the fault leaves the one state of R244. -/
theorem faultsArePrecise : Obligations.FaultsArePrecise := by
  intro s t hrun hstep hhalt
  obtain ⟨c, w, hc, hw, rfl⟩ := step_halts hrun hstep hhalt
  exact ⟨hc, rfl, hw, dt_haltTick .., st_haltTick .., frameBut_haltTick ..⟩

/-- Settles O41: the tick ends where it begins. -/
theorem haltedTickChangesNothing : Obligations.HaltedTickChangesNothing := by
  refine fun s hhalt => ⟨_, step_of_halted hhalt, s.beginTick_started, ?_, ?_⟩
  · obtain ⟨k, r, l, h⟩ := s.beginTick_eq
    rw [h]
    rfl
  · rw [withInputsOf_beginTick]
    exact frameBut_refl _ _ _

/-- Settles O36: a tick that halts keeps the timers of phase T, and so does an instruction that writes neither. -/
theorem timersCountDownEveryTick : Obligations.TimersCountDownEveryTick := by
  intro s t hrun hstep
  obtain ⟨c, w, -, -, hnone, rfl⟩ | ⟨w, i, -, -, hnext, hexec⟩ := step_running_cases hrun hstep
  · rw [hnone]
    exact ⟨fun _ => dt_haltTick .., fun _ => st_haltTick .., nofun, nofun⟩
  · obtain ⟨-, -, -, hdt, hst⟩ := onlyTheNamedInstructionsWrite i _ t hexec
    rw [← dt_phaseX, ← st_phaseX, hnext]
    refine ⟨fun h => ?_, fun h => ?_, ?_, ?_⟩
    · rw [hdt fun x hi => h x (congrArg some hi)]
    · rw [hst fun x hi => h x (congrArg some hi)]
    · rintro x ⟨⟩
      rw [exec_ldDtVx] at hexec
      cases hexec
      exact ⟨reg_phaseX s x, rfl⟩
    · rintro x ⟨⟩
      rw [exec_ldStVx] at hexec
      cases hexec
      exact ⟨reg_phaseX s x, rfl⟩

/-- Settles O37: by induction over the ticks; `Fx07` reads what the timer phase of its own tick left. -/
theorem delayTimerOverTicks : Obligations.DelayTimerOverTicks := by
  intro run j hrun
  have hdown : ∀ n, n < j → (run (n + 1)).dt.toNat = (run n).dt.toNat - 1 := fun n hn => by
    obtain ⟨hrunning, hstep, hnowrite⟩ := hrun n hn
    exact (timersCountDownEveryTick _ _ hrunning hstep).1 hnowrite
  have htotal := countDown_over_ticks (f := fun n => (run n).dt.toNat) hdown
  refine ⟨htotal j le_rfl, fun n x hn hread => ?_⟩
  obtain ⟨-, hstep, -⟩ := hrun n hn
  rw [step_of_nextInstr hread, exec_ldVxDt] at hstep
  rw [← Host.Outcome.next.inj hstep, State.reg_setReg_same, dt_phaseX, htotal n hn.le, Nat.sub_sub]

/-- Settles O57: by induction over the ticks; the sound is on while `ST` is not 0. -/
theorem soundTimerOverTicks : Obligations.SoundTimerOverTicks := by
  intro run j hrun
  have hdown : ∀ n, n < j → (run (n + 1)).st.toNat = (run n).st.toNat - 1 := fun n hn => by
    obtain ⟨hrunning, hstep, hnowrite⟩ := hrun n hn
    exact (timersCountDownEveryTick _ _ hrunning hstep).2.1 hnowrite
  have htotal := countDown_over_ticks (f := fun n => (run n).st.toNat) hdown j le_rfl
  refine ⟨htotal, ?_⟩
  rw [soundOn_outputs, ← Bool.not_eq_true, soundOn_iff_toNat_ne, not_not, ← Nat.sub_eq_zero_iff_le]
  exact Eq.congr_left htotal

/-! ### The display event -/

/-- Settles O30: the blank frame is off everywhere, and the instruction does not halt. -/
theorem clearTurnsEveryPixelOff : Obligations.ClearTurnsEveryPixelOff := by
  refine ⟨fun s => ⟨_, exec_cls s, pixel_blankFrame, frameBut_setFb s _⟩, fun s hnext => ?_⟩
  obtain ⟨hrun, -⟩ := nextInstr_eq_some_iff.1 hnext
  exact (fbChanged_iff hnext).2 ⟨rfl, _, exec_cls _, s.beginTick_halted.trans hrun⟩

/-- The draw of a running machine ends running exactly when the sprite is in memory. -/
theorem draw_runs_iff {x y : Reg} {n : Nibble} (hrun : s.Running) :
    (∃ t, exec (.drwVxVyN x y n) s = .next t ∧ t.Running) ↔ SpriteInRange s n := by
  refine ⟨fun ⟨t, hexec, ht⟩ => ?_, fun hrange => ⟨_, exec_drwVxVyN_inRange x y hrange, hrun⟩⟩
  by_contra hrange
  obtain ⟨hpos, hgt⟩ := not_or.1 hrange
  rw [exec_drwVxVyN_outOfRange x y (Nat.pos_of_ne_zero hpos) (not_le.1 hgt), State.raise_eq] at hexec
  cases hexec
  cases ht

/-- Settles O33: by the instruction of the tick; only `00E0` and `Dxyn` notify, and of the two only `Dxyn` can halt. -/
theorem displayNotification : Obligations.DisplayNotification := by
  refine fun s => ⟨fun i hnext => ?_, fun hnone => ?_, ?_⟩
  · obtain ⟨hrun, -⟩ := nextInstr_eq_some_iff.1 hnext
    have hrun' : s.beginTick.timerPhase.advance.Running := s.beginTick_halted.trans hrun
    have hrange : ∀ n, SpriteInRange s.beginTick.timerPhase.advance n ↔ SpriteInRange s n := fun n => by
      rw [SpriteInRange, i_phaseX, SpriteInRange]
    rw [fbChanged_iff hnext]
    constructor
    · rintro ⟨hnotifies, hruns⟩
      obtain rfl | ⟨x, y, n, rfl⟩ := cls_or_drw_of_notifiesDisplay hnotifies
      · exact .inl rfl
      · exact .inr ⟨x, y, n, rfl, (hrange n).1 ((draw_runs_iff hrun').1 hruns)⟩
    · rintro (rfl | ⟨x, y, n, rfl, hsprite⟩)
      · exact ⟨rfl, _, exec_cls _, hrun'⟩
      · exact ⟨rfl, (draw_runs_iff hrun').2 ((hrange n).2 hsprite)⟩
  · rw [State.fbChanged, hnone]
  · intro hno
    refine Option.eq_none_iff_forall_ne_some.2 fun i hnext => ?_
    obtain ⟨hrun, w, hf, hd⟩ := nextInstr_eq_some_iff.1 hnext
    obtain hhalt | hpc | ⟨w', hf', hd'⟩ := hno
    · exact absurd (hrun.symm.trans hhalt) nofun
    · exact absurd (pc_le_of_fetchWord_eq_some hf) (not_le.2 hpc)
    · cases hf.symm.trans hf'
      cases hd.symm.trans hd'

end Sys2Proof.Claims
end

section
/-! PROOFS. The inputs (spec/40_tick_cycle.md R118): every operation commutes with a change of the input fields, but for the
instructions that read the field changed. -/

namespace Sys2Proof.Machine

open Sys2Proof.Claims

/-- The instruction reads the sample of `RAND`. -/
def readsRand : Instr → Bool
  | .rndVxNn _ _ => true
  | _ => false

/-- The instruction reads the sample of `KEYS`. -/
def readsKeys : Instr → Bool
  | .skpVx _ => true
  | .sknpVx _ => true
  | .ldVxK _ => true
  | _ => false

/-- A result with its next state changed by `f`. -/
def mapNext (f : State → State) : Result → Result
  | .next t => .next (f t)
  | .fault r => .fault r
  | .refused r => .refused r

/-- A result with the input fields of its next state taken from `e`. -/
def resultWithInputsOf (r : Result) (e : State) : Result := mapNext (withInputsOf · e) r

variable {s e t : State} {i : Instr}

/-! ### The shared operations -/

theorem setRegsFrom_withInputsOf : ∀ (bs : List Byte) (s : State) (k : Nat),
    (withInputsOf s e).setRegsFrom k bs = withInputsOf (s.setRegsFrom k bs) e
  | [], _, _ => rfl
  | b :: bs, s, k => setRegsFrom_withInputsOf bs (s.setReg (BitVec.ofNat 4 k) b) (k + 1)

theorem skipIf_withInputsOf (s : State) (taken : Bool) :
    (withInputsOf s e).skipIf taken = withInputsOf (s.skipIf taken) e := by
  cases taken <;> rfl

theorem raise_withInputsOf (s : State) (c : Cause) (i : Instr) :
    (withInputsOf s e).raise c i = resultWithInputsOf (s.raise c i) e := rfl

theorem storeBlock_withInputsOf (s : State) (bs : List Byte) :
    (withInputsOf s e).storeBlock bs = (s.storeBlock bs).map (withInputsOf · e) := by
  rw [State.storeBlock_eq, State.storeBlock_eq, apply_ite (Option.map _)]
  rfl

theorem keyHeld_withInputsOf (hkeys : e.keys = s.keys) (k : Nat) : (withInputsOf s e).keyHeld k = s.keyHeld k := by
  simp only [State.keyHeld, withInputsOf, hkeys]

theorem keyWait_withInputsOf (x : Reg) (hkeys : e.keys = s.keys) :
    (withInputsOf s e).keyWait .firstMatch x = withInputsOf (s.keyWait .firstMatch x) e := by
  have hheld : (withInputsOf s e).heldKeys = s.heldKeys := by
    simp only [State.heldKeys, keyHeld_withInputsOf hkeys]
  cases hlist : s.heldKeys with
  | nil => rw [keyWait_firstMatch_nil (hheld.trans hlist), keyWait_firstMatch_nil hlist]; rfl
  | cons k ks => rw [keyWait_firstMatch_cons (hheld.trans hlist), keyWait_firstMatch_cons hlist]; rfl

theorem keySkip_withInputsOf (s : State) (i : Instr) (n : Nat) (taken : Bool) :
    (if n > 15 then (withInputsOf s e).raise .keyRange i else .next ((withInputsOf s e).skipIf taken)) =
      resultWithInputsOf (if n > 15 then s.raise .keyRange i else .next (s.skipIf taken)) e := by
  rw [skipIf_withInputsOf, raise_withInputsOf]
  split <;> rfl

/-! ### Phase X -/

theorem exec_ret_withInputsOf (s e : State) :
    exec .ret (withInputsOf s e) = resultWithInputsOf (exec .ret s) e := by
  rcases Nat.eq_zero_or_pos s.sp.toNat with hzero | hpos
  · rw [exec_ret_empty s hzero, exec_ret_empty (withInputsOf s e) hzero]
    rfl
  · by_cases hsp : s.sp.toNat ≤ 16
    · have hslot := s.slot_eq_some (s.sp.toNat - 1) (by omega)
      rw [exec_ret_used s hpos hslot, exec_ret_used (withInputsOf s e) hpos hslot]
      rfl
    · rw [exec_ret_unreachable s (by omega), exec_ret_unreachable (withInputsOf s e) (not_le.1 hsp)]
      rfl

theorem exec_callNnn_withInputsOf (s e : State) (nnn : Addr) :
    exec (.callNnn nnn) (withInputsOf s e) = resultWithInputsOf (exec (.callNnn nnn) s) e := by
  rcases Nat.lt_trichotomy s.sp.toNat 16 with hfree | hfull | hsp
  · rw [exec_callNnn_free s nnn hfree, exec_callNnn_free (withInputsOf s e) nnn hfree]
    rfl
  · rw [exec_callNnn_full s nnn hfull, exec_callNnn_full (withInputsOf s e) nnn hfull]
    rfl
  · rw [exec_callNnn_unreachable s nnn hsp, exec_callNnn_unreachable (withInputsOf s e) nnn hsp]
    rfl

theorem exec_ldBVx_withInputsOf (s e : State) (x : Reg) :
    exec (.ldBVx x) (withInputsOf s e) = resultWithInputsOf (exec (.ldBVx x) s) e := by
  have hstore : (withInputsOf s e).storeBlock (bcdDigits ((withInputsOf s e).reg x)) =
      (s.storeBlock (bcdDigits (s.reg x))).map (withInputsOf · e) := storeBlock_withInputsOf s _
  simp only [exec, execLdBVx, hstore]
  cases s.storeBlock (bcdDigits (s.reg x)) <;> rfl

theorem exec_ldIIndVx_withInputsOf (s e : State) (x : Reg) :
    exec (.ldIIndVx x) (withInputsOf s e) = resultWithInputsOf (exec (.ldIIndVx x) s) e := by
  have hstore : (withInputsOf s e).storeBlock ((withInputsOf s e).regsUpTo x) =
      (s.storeBlock (s.regsUpTo x)).map (withInputsOf · e) := storeBlock_withInputsOf s _
  simp only [exec, execLdIIndVx, hstore]
  cases s.storeBlock (s.regsUpTo x) <;> rfl

theorem exec_ldVxIInd_withInputsOf (s e : State) (x : Reg) :
    exec (.ldVxIInd x) (withInputsOf s e) = resultWithInputsOf (exec (.ldVxIInd x) s) e := by
  have hload : (withInputsOf s e).loadBlock (regCount x) = s.loadBlock (regCount x) := rfl
  simp only [exec, execLdVxIInd, hload, setRegsFrom_withInputsOf]
  cases s.loadBlock (regCount x) <;> rfl

theorem exec_drwVxVyN_withInputsOf (s e : State) (x y : Reg) (n : Nibble) :
    exec (.drwVxVyN x y n) (withInputsOf s e) = resultWithInputsOf (exec (.drwVxVyN x y n) s) e := by
  have hload : (withInputsOf s e).loadBlock (rowCount n) = s.loadBlock (rowCount n) := rfl
  simp only [exec, execDrwVxVyN, hload]
  cases s.loadBlock (rowCount n) <;> rfl

/-- Phase X commutes with a change of the inputs that keeps what the instruction reads of them. -/
theorem exec_withInputsOf (hrand : readsRand i = true → e.rand = s.rand) (hkeys : readsKeys i = true → e.keys = s.keys) :
    exec i (withInputsOf s e) = resultWithInputsOf (exec i s) e := by
  cases i
  case ret => exact exec_ret_withInputsOf s e
  case callNnn nnn => exact exec_callNnn_withInputsOf s e nnn
  case rndVxNn x nn =>
    rw [exec_rndVxNn, exec_rndVxNn]
    show Host.Outcome.next ((withInputsOf s e).setReg x (e.rand &&& nn)) = _
    rw [hrand rfl]
    rfl
  case ldVxK x =>
    rw [exec_ldVxK, exec_ldVxK, keyWait_withInputsOf x (hkeys rfl)]
    rfl
  case skpVx x =>
    refine Eq.trans ?_ (keySkip_withInputsOf s (.skpVx x) (s.reg x).toNat (s.keyHeld (s.reg x).toNat))
    rw [← keyHeld_withInputsOf (hkeys rfl)]
    rfl
  case sknpVx x =>
    refine Eq.trans ?_ (keySkip_withInputsOf s (.sknpVx x) (s.reg x).toNat (!s.keyHeld (s.reg x).toNat))
    rw [← keyHeld_withInputsOf (hkeys rfl)]
    rfl
  case seVxNn | sneVxNn | seVxVy | sneVxVy => exact congrArg Host.Outcome.next (skipIf_withInputsOf s _)
  case ldBVx x => exact exec_ldBVx_withInputsOf s e x
  case ldIIndVx x => exact exec_ldIIndVx_withInputsOf s e x
  case ldVxIInd x => exact exec_ldVxIInd_withInputsOf s e x
  case drwVxVyN x y n => exact exec_drwVxVyN_withInputsOf s e x y n
  all_goals rfl

/-- No instruction writes the inputs. -/
theorem exec_keeps_inputs (h : exec i s = .next t) :
    t.keys = s.keys ∧ t.rand = s.rand ∧ t.inputs = s.inputs ∧ t.tickNo = s.tickNo := by
  cases effect_of_exec_eq h <;> exact ⟨rfl, rfl, rfl, rfl⟩

theorem withInputsOf_rand (hkeys : t.keys = s.keys) (hinputs : t.inputs = s.inputs) (htickNo : t.tickNo = s.tickNo)
    (r : Byte) : withInputsOf t { s with rand := r } = { t with rand := r } := by
  simp only [withInputsOf, ← hkeys, ← hinputs, ← htickNo]

theorem withInputsOf_keys (hrand : t.rand = s.rand) (hinputs : t.inputs = s.inputs) (htickNo : t.tickNo = s.tickNo)
    (k : BitVec 16) : withInputsOf t { s with keys := k } = { t with keys := k } := by
  simp only [withInputsOf, ← hrand, ← hinputs, ← htickNo]

/-! ### The tick -/

/-- Two ticks that start from states with other inputs leave states with other inputs, where the samples are the same. -/
theorem step_withInputsOf {s' : State} (hbegin : s'.beginTick = withInputsOf s.beginTick e)
    (hrand : e.rand = s.beginTick.rand) (hkeys : e.keys = s.beginTick.keys) :
    step s' = resultWithInputsOf (step s) e := by
  have hhalted : s'.halted = s.halted := by
    rw [← s'.beginTick_halted, hbegin]
    exact s.beginTick_halted
  have hfetch : s'.fetchWord = s.fetchWord := by
    rw [← s'.fetchWord_beginTick, hbegin]
    exact s.fetchWord_beginTick
  by_cases hhalt : s.halted = true
  · rw [step_of_halted hhalt, step_of_halted (hhalted.trans hhalt), hbegin]
    rfl
  · have hrun : s.Running := Bool.eq_false_iff.2 hhalt
    have hrun' : s'.Running := hhalted.trans hrun
    cases hf : s.fetchWord with
    | none =>
      rw [step_of_no_fetch hrun hf, step_of_no_fetch hrun' (hfetch.trans hf), hbegin]
      rfl
    | some w =>
      obtain hd | ⟨i, hd⟩ := decodeWord_cases w
      · rw [step_of_illegal hrun hf hd, step_of_illegal hrun' (hfetch.trans hf) hd, hbegin]
        rfl
      · rw [step_of_decodes hrun hf hd, step_of_decodes hrun' (hfetch.trans hf) hd, hbegin]
        exact exec_withInputsOf (s := s.beginTick.timerPhase.advance) (fun _ => hrand) (fun _ => hkeys)

/-- A tick leaves the inputs as its start left them. -/
theorem step_keeps_inputs (h : step s = .next t) :
    t.keys = s.beginTick.keys ∧ t.rand = s.beginTick.rand ∧ t.inputs = s.beginTick.inputs := by
  obtain ⟨-, rfl⟩ | ⟨-, -, rfl⟩ | ⟨-, w, -, -, rfl⟩ | ⟨-, w, i, -, -, hexec⟩ := step_cases h
  · exact ⟨rfl, rfl, rfl⟩
  · exact ⟨rfl, rfl, rfl⟩
  · exact ⟨rfl, rfl, rfl⟩
  · obtain ⟨hkeys, hrand, hinputs, -⟩ := exec_keeps_inputs hexec
    exact ⟨hkeys, hrand, hinputs⟩

end Sys2Proof.Machine

namespace Sys2Proof.Claims

open Sys2Proof.Machine

/-- Settles O55: phase X commutes with the change of an input that it does not read, and writes none. -/
theorem otherInstructionsIgnoreTheInputs : Obligations.OtherInstructionsIgnoreTheInputs := by
  intro i s t hexec
  obtain ⟨hkeys, hrand, hinputs, htickNo⟩ := exec_keeps_inputs hexec
  refine ⟨fun hother r => ?_, fun hother k => ?_⟩
  · have hreads : readsRand i = false := by
      cases i
      case rndVxNn x nn => exact absurd rfl (hother x nn)
      all_goals rfl
    have hcomm := exec_withInputsOf (i := i) (s := s) (e := { s with rand := r }) (by simp [hreads]) fun _ => rfl
    rw [hexec] at hcomm
    exact hcomm.trans (congrArg Host.Outcome.next (withInputsOf_rand hkeys hinputs htickNo r))
  · have hreads : readsKeys i = false := by
      cases i
      case skpVx x => exact absurd rfl (hother x).1
      case sknpVx x => exact absurd rfl (hother x).2.1
      case ldVxK x => exact absurd rfl (hother x).2.2
      all_goals rfl
    have hcomm := exec_withInputsOf (i := i) (s := s) (e := { s with keys := k }) (fun _ => rfl) (by simp [hreads])
    rw [hexec] at hcomm
    exact hcomm.trans (congrArg Host.Outcome.next (withInputsOf_keys hrand hinputs htickNo k))

/-- Settles O54: the state at the start of the tick has the presented pair, and the rest of the tick commutes with a change
of the other input fields. -/
theorem tickDependsOnItsInputsAlone : Obligations.TickDependsOnItsInputsAlone := by
  intro s t keys rand htick
  have hstep : step (s.present ⟨keys, rand⟩) = .next t := htick
  have hbegin := s.present_beginTick ⟨keys, rand⟩
  obtain ⟨hkeys, hrand, hinputs⟩ := step_keeps_inputs hstep
  rw [hbegin] at hkeys hrand hinputs
  refine ⟨hkeys, hrand, hinputs, fun i hnext => ?_, fun k r l n => ⟨n + 1, ?_⟩⟩
  · have hnext' : (s.present ⟨keys, rand⟩).nextInstr = some i := hnext
    exact ⟨(s.present ⟨keys, rand⟩).beginTick.timerPhase.advance, rfl, rfl, (step_of_nextInstr hnext').symm.trans hstep⟩
  · have hbegin' : (State.present { s with keys := k, rand := r, inputs := l, tickNo := n } ⟨keys, rand⟩).beginTick =
        withInputsOf (s.present ⟨keys, rand⟩).beginTick { t with inputs := l, tickNo := n + 1 } := by
      rw [State.present_beginTick, hbegin, withInputsOf, hkeys, hrand]
    rw [tick, step_withInputsOf hbegin' hrand hkeys, hstep]
    rfl

end Sys2Proof.Claims
end

section
/-! PROOFS. The control FSM (spec/40_tick_cycle.md R116): the four phases are the tick's own operations in its order. -/

namespace Sys2Proof.Machine

variable {s t : State}

theorem exec_keeps_started {i : Instr} (h : exec i s = .next t) : t.started = s.started := by
  cases effect_of_exec_eq h <;> rfl

theorem atRest_of_halted (h : s.halted = true) : FsmConf.atRest s = ⟨.halt, s⟩ := by
  rw [FsmConf.atRest, State.restState, if_pos h]

/-- After a tick the FSM rests in `IDLE` or in `HALT`. -/
theorem ctrl_atRest_of_started (h : s.started = true) :
    (FsmConf.atRest s).ctrl = .idle ∨ (FsmConf.atRest s).ctrl = .halt := by
  show s.restState = .idle ∨ s.restState = .halt
  by_cases hhalt : s.halted = true
  · exact .inr (if_pos hhalt)
  · exact .inl ((if_neg hhalt).trans (if_pos h))

theorem tick_atRest_of_running (hrun : s.Running) : (FsmConf.atRest s).tick = some ⟨.timer, s.beginTick⟩ := by
  cases hstarted : s.started <;> simp [FsmConf.tick, FsmConf.atRest, State.restState, hrun, hstarted]

theorem phases_no_fetch (hf : s.timerPhase.fetchWord = none) :
    (FsmConf.mk .timer s).phases 4 = .next (FsmConf.atRest s.timerPhase.fetchFault) := by
  simp only [FsmConf.phases, FsmConf.phase, hf]
  rfl

theorem phases_illegal {w : Word} {e : DecodeError} (hf : s.timerPhase.fetchWord = some w) (hd : decodeWord w = .error e) :
    (FsmConf.mk .timer s).phases 4 = .next (FsmConf.atRest (s.timerPhase.illegalFault w)) := by
  simp only [FsmConf.phases, FsmConf.phase, hf, hd]
  rfl

theorem phases_decodes {w : Word} {i : Instr} (hf : s.timerPhase.fetchWord = some w) (hd : decodeWord w = .ok i) :
    (FsmConf.mk .timer s).phases 4 =
      match exec i s.timerPhase.advance with
      | .next t => .next (FsmConf.atRest t)
      | .fault r => .fault r
      | .refused r => .refused r := by
  have hadvance : s.timerPhase.setPc (s.timerPhase.pc + 2) = s.timerPhase.advance := rfl
  simp only [FsmConf.phases, FsmConf.phase, hf, hd, hadvance]
  cases exec i s.timerPhase.advance <;> rfl

end Sys2Proof.Machine

namespace Sys2Proof.Claims

open Sys2Proof.Machine

/-- Settles O56: by the four outcomes of the tick, each of which the phases run through in the same order. -/
theorem phasesRunTheTick : Obligations.PhasesRunTheTick := by
  intro s
  by_cases hhalt : s.halted = true
  · rw [atRest_of_halted hhalt, step_of_halted hhalt]
    have hrest := atRest_of_halted (s.beginTick_halted.trans hhalt)
    exact ⟨_, rfl, by rw [hrest]; rfl, ctrl_atRest_of_started s.beginTick_started⟩
  · have hrun : s.Running := Bool.eq_false_iff.2 hhalt
    refine ⟨_, tick_atRest_of_running hrun, ?_⟩
    cases hf : s.fetchWord with
    | none =>
      rw [step_of_no_fetch hrun hf]
      exact ⟨phases_no_fetch (s.fetchWord_beginTick.trans hf), .inr rfl⟩
    | some w =>
      have hf' := s.fetchWord_beginTick.trans hf
      obtain hd | ⟨i, hd⟩ := decodeWord_cases w
      · rw [step_of_illegal hrun hf hd]
        exact ⟨phases_illegal hf' hd, .inr rfl⟩
      · rw [step_of_decodes hrun hf hd, phases_decodes hf' hd]
        cases hexec : exec i s.beginTick.timerPhase.advance with
        | next t => exact ⟨rfl, ctrl_atRest_of_started (exec_keeps_started hexec)⟩
        | fault r => rfl
        | refused r => rfl

end Sys2Proof.Claims
end

section
/-! PROOFS. The events `reset` and `load` (spec/70_reset_and_hazards.md) and the level outputs (spec/10_state.md R34). -/

namespace Sys2Proof.Machine

theorem length_font : Config.font.length = 80 := by decide

theorem resetByte_of_lt {a : Nat} (h : a < 80) : some (resetByte a) = Config.font[a]? := by
  rw [resetByte, List.getD_eq_getElem?_getD, List.getElem?_eq_getElem (h.trans_eq length_font.symm), Option.getD_some]

theorem resetByte_of_ge {a : Nat} (h : 80 ≤ a) : resetByte a = 0 := by
  rw [resetByte, List.getD_eq_getElem?_getD, List.getElem?_eq_none (length_font.trans_le h), Option.getD_none]

/-- The reset event takes everything but the inputs from the reset state. -/
theorem resetEvent_eq (s : State) : s.resetEvent = Claims.withInputsOf State.reset s := rfl

theorem load_of_started {s : State} (h : s.started = true) (bytes : List Byte) : s.load bytes = s := if_pos h

theorem load_of_not_started {s : State} (h : s.started = false) (bytes : List Byte) :
    s.load bytes = { s with mem := s.mem.writeList Config.progBase (bytes.take Config.progCap) } :=
  if_neg (by rw [h]; exact Bool.false_ne_true)

/-- The codes are 1 to 6 and tell the causes apart. -/
theorem code_eq_iff (c d : Cause) : c.code.toNat = d.code.toNat ↔ c = d := by
  cases c <;> cases d <;> decide

theorem code_ne_seven (c : Cause) : c.code.toNat ≠ 7 := by
  cases c <;> decide

end Sys2Proof.Machine

namespace Sys2Proof.Claims

open Sys2Proof.Machine

/-- Settles O50: the registers are constant, the memory is empty and so reads as the font and 0. -/
theorem resetValues : Obligations.ResetValues := by
  refine ⟨fun r => ?_, by decide, rfl, fun k hk => ?_, rfl, rfl, rfl, length_font, fun a ha => resetByte_of_lt ha,
    fun a ha => resetByte_of_ge ha, pixel_blankFrame, rfl, rfl, rfl, rfl, rfl⟩
  · simp [State.reg, State.reset]
  · rw [State.slot_eq_some _ k hk]
    simp [State.reset]

/-- Settles O51: the state after the event is the reset state with the environment's fields. -/
theorem resetEventRestoresTheResetState : Obligations.ResetEventRestoresTheResetState := fun s =>
  ⟨s.resetEvent, rfl, resetEvent_eq s ▸ frameBut_refl _ _ _, rfl⟩

/-- Settles O52: before the first tick a load is a block write of at most 3584 bytes at 0x200; after it, nothing. -/
theorem loadCopiesTheProgram : Obligations.LoadCopiesTheProgram := by
  intro s bytes
  refine ⟨s.load bytes, rfl, ?_, fun hstarted a => by rw [load_of_started hstarted], fun hno => ?_⟩
  · unfold State.load
    split
    · exact frameBut_refl _ _ s
    · exact frameBut_setMem s _
  rw [load_of_not_started hno]
  have hlen : (bytes.take Config.progCap).length = min 3584 bytes.length := List.length_take
  refine ⟨fun k hk hcap => ?_, fun a ha => Memory.read_writeList_outside _ _ _ _ ?_⟩
  · have hk' : k < (bytes.take Config.progCap).length := by omega
    have hread := Memory.read_writeList_inside _ s.mem Config.progBase k hk'
    rw [List.getElem_take] at hread
    rw [List.getElem?_eq_getElem hk]
    exact congrArg some hread
  · rw [hlen, Config.progBase]
    omega

/-- Settles O58: every output is a field of the state or its test, and the codes tell the causes apart. -/
theorem levelOutputs : Obligations.LevelOutputs := fun s =>
  ⟨fun _ _ => rfl, stOut_outputs s, by rw [soundOn_outputs, soundOn_iff_toNat_ne], Iff.rfl, code_eq_iff _ .none,
    code_eq_iff _ .illegalInstruction, code_eq_iff _ .fetchRange, code_eq_iff _ .stackOverflow,
    code_eq_iff _ .stackUnderflow, code_eq_iff _ .dataRange, code_eq_iff _ .keyRange, code_ne_seven _, rfl, rfl,
    fun ⟨hzero, _⟩ hrun =>
      have ⟨hcause, hfaultPc, hfaultWord⟩ := hzero hrun
      ⟨congrArg Cause.code hcause, hfaultPc, hfaultWord⟩⟩

end Sys2Proof.Claims
end
